-- ==== Sys2Proof/Word.lean ====
section
/-! DEFINITION. The word types of the core: a byte is what a request, an Init Table entry and the response stream carry. -/

namespace Sys2Proof

/-- A request byte, a response byte, a command code or a parameter (R9 DATA_W = 8). -/
abbrev Byte := BitVec 8

end Sys2Proof
end

