-- ==== Sys2Proof/Config.lean ====
section
/-! DEFINITION. The build-time configuration record Cfg of the core (R9), the constants the spec fixes, and the free values (draws). -/

namespace Sys2Proof

/-- An Init Table entry: a command code and its parameter bytes, in order (R19, R104). -/
structure Entry where
  cmd    : Byte
  params : List Byte
  deriving DecidableEq, Repr, Inhabited

/-- The configuration record of R9.
It is fixed when the core is built, and every rule reads it.
DISP_COLS, DISP_PAGES, N and the register widths are computed from it, so they cannot disagree with it. -/
structure Cfg where
  /-- W: grid width in cells. -/
  gridW     : Nat
  /-- H: grid height in cells. -/
  gridH     : Nat
  /-- S: the display-to-grid scale factor, one factor for both axes. -/
  scale     : Nat
  /-- F_CLK_HZ: no rule of the machine reads it; the obligations on whoever chooses a Cfg do (R11, R269). -/
  fClkHz    : Nat
  /-- T_RESET: the reset pulse in cycles. -/
  tReset    : Nat
  /-- T_RELEASE: the release wait in cycles. -/
  tRelease  : Nat
  /-- T_SETUP: cycles of the setup phase of one serial bit. -/
  tSetup    : Nat
  /-- T_ACTIVE: cycles of the active phase of one serial bit. -/
  tActive   : Nat
  /-- INIT_TABLE (R77). -/
  initTable : List Entry
  /-- CMD_NOP: the sentinel's command code. -/
  cmdNop    : Byte
  /-- CMD_RAMWR: the begin-memory-write code. -/
  cmdRamwr  : Byte
  /-- SEED: the contents of the current bank after reset, by address (R58, R293). -/
  seed      : List Bool
  /-- ALIVE_CHAR: the alive symbol of a seed text (D23); it only turns a text into a SEED. -/
  aliveChar : Char
  deriving DecidableEq, Repr

/-- DISP_COLS (R9). -/
def Cfg.dispCols (c : Cfg) : Nat := c.gridW * c.scale

/-- DISP_PAGES (R9). -/
def Cfg.dispPages (c : Cfg) : Nat := c.gridH * c.scale

/-- N, the cell count of one bank (R9). -/
def Cfg.cellCount (c : Cfg) : Nat := c.gridW * c.gridH

/-- PIXEL_ON: each pixel byte of a live cell (R9). -/
def Config.pixelOn : Byte := 0xFF#8

/-- PIXEL_OFF: each pixel byte of a dead cell (R9). -/
def Config.pixelOff : Byte := 0x00#8

/-- BYTES_PER_PIXEL (R9, R110). -/
def Config.bytesPerPixel : Nat := 2

/-- UART_BAUD: the rate of the diagnostic relay, which is outside the core (R9, R271). -/
def Config.uartBaud : Nat := 115200

/-- The default of CMD_NOP (R12; general knowledge there). -/
def Config.defaultNop : Byte := 0x00#8

/-- The default of CMD_RAMWR (R12; general knowledge there). -/
def Config.defaultRamwr : Byte := 0x2C#8

/-- DESIGN CHOICE (log entry 1): the build that State.reset is the reset state of.
The spec leaves W, H, S, the timings, the table and the seed open; this one takes the sizes and times of the spec's example P3 (5 by 5
cells, S = 1, every time 1), the default codes, an empty table and a dead seed, so it holds no program.
No statement rests on it: State carries its Cfg, and statements hold for every State. -/
def Config.build : Cfg :=
  { gridW := 5, gridH := 5, scale := 1, fClkHz := 1
    tReset := 1, tRelease := 1, tSetup := 1, tActive := 1
    initTable := [], cmdNop := Config.defaultNop, cmdRamwr := Config.defaultRamwr
    seed := List.replicate 25 false, aliveChar := '#' }

/-! The draws: values the spec leaves unspecified (R58, R59, R135, R136, R170, R201, R278). None has a body, so
nothing proves a value of one. The first argument is State.tick, which every cycle advances, so each cycle has its own draw. -/

/-- The level the controller drives on miso in a cycle for which State.inputs lists nothing (R278). -/
opaque Config.drawMiso : Nat → Bool

/-- mosi in a cycle outside TX (R135). -/
opaque Config.drawMosi : Nat → Bool

/-- rsp_data in a cycle outside EMIT (R136). -/
opaque Config.drawRspData : Nat → Byte

/-- is_req_data in a cycle in which is_req_valid = 0 (R170). -/
opaque Config.drawIsReqData : Nat → Byte

/-- sp_req_data in a cycle in which sp_req_valid = 0 (R201). -/
opaque Config.drawSpReqData : Nat → Byte

/-- The bit of nxt at an address after the reset that ends at a tick (R58, R290). -/
opaque Config.drawNxtCell : Nat → Nat → Bool

/-- cur.rdata after the reset that ends at a tick (R59, R290). -/
opaque Config.drawCurRdata : Nat → Bool

/-- nxt.rdata after the reset that ends at a tick (R59, R290). -/
opaque Config.drawNxtRdata : Nat → Bool

/-- What the Init Table ROM gives at an entry index the table does not have.
The spec states no value there; no reachable state reads one (log entry 8). -/
opaque Config.drawEntry : Nat → Entry

/-- What the Init Table ROM gives at a parameter index the entry does not have (log entry 8). -/
opaque Config.drawParam : Nat → Nat → Byte

end Sys2Proof
end

