-- ==== Sys2Proof/Syntax.lean ====
section
/-! DEFINITION. The syntax: a Transaction Request, and Instr with one constructor per row of the opcode table. -/

namespace Sys2Proof

/-- A Transaction Request (R19, R35): mode true is command, false is parameter. -/
structure Req where
  data : Byte
  mode : Bool
  rlen : BitVec 4
  deriving DecidableEq, Repr

/-- The 24 rows of the opcode table.
A row of format REQ or INIT is a whole operation of many cycles (R138, R139, R177, R178); a row of a state format is what one
of the three machines does in one cycle (R112). -/
inductive Instr where
  /-- A request with mode = command (R138). -/
  | txnCmd (data : Byte) (rlen : BitVec 4)
  /-- A request with mode = parameter (R139). -/
  | txnParam (data : Byte) (rlen : BitVec 4)
  /-- The sentinel entry (CMD_NOP, []) (R178). -/
  | initNop
  /-- An entry whose command is not CMD_NOP (R177). -/
  | initCmd (cmd : Byte) (params : List Byte)
  | peIdle
  | peTx
  | peRx
  | peEmit
  | isReset
  | isWait
  | isNext
  | isCmd
  | isParam
  | isDone
  | spBringup
  | spBeginWrite
  | spRenderAddr
  | spRenderByte0
  | spRenderByte1
  | spEvolveAddr
  | spEvolveAcc
  | spEvolveWrite
  | spTransitionLoad
  | spTransitionWrite
  deriving DecidableEq, Repr

end Sys2Proof
end

