-- ==== Sys2Proof/WellFormed.lean ====
section
/-! DEFINITION. Which configurations a model builds (R10) and which instructions are well formed (R104). -/

namespace Sys2Proof

/-- An entry with command CMD_NOP has no parameters (R10, R104). -/
def Entry.wf (nop : Byte) (e : Entry) : Bool :=
  e.cmd != nop || e.params.isEmpty

/-- R10, condition by condition. The byte ranges of R10 hold by type, and DISP_COLS and DISP_PAGES are computed. -/
def Cfg.wf (c : Cfg) : Bool :=
  decide (1 ≤ c.gridW) && decide (1 ≤ c.gridH) && decide (1 ≤ c.scale)
    && decide (1 ≤ c.tReset) && decide (1 ≤ c.tRelease) && decide (1 ≤ c.tSetup) && decide (1 ≤ c.tActive)
    && decide (c.seed.length = c.cellCount)
    && c.initTable.all (Entry.wf c.cmdNop)

/-- INIT_CMD stands for entries whose command is not CMD_NOP (R104); every other operand value is legal (R103, R113). -/
def Instr.wf (nop : Byte) : Instr → Bool
  | .txnCmd _ _ => true
  | .txnParam _ _ => true
  | .initNop => true
  | .initCmd c _ => c != nop
  | .peIdle => true
  | .peTx => true
  | .peRx => true
  | .peEmit => true
  | .isReset => true
  | .isWait => true
  | .isNext => true
  | .isCmd => true
  | .isParam => true
  | .isDone => true
  | .spBringup => true
  | .spBeginWrite => true
  | .spRenderAddr => true
  | .spRenderByte0 => true
  | .spRenderByte1 => true
  | .spEvolveAddr => true
  | .spEvolveAcc => true
  | .spEvolveWrite => true
  | .spTransitionLoad => true
  | .spTransitionWrite => true

end Sys2Proof
end

