-- ==== Sys2Proof/Decode.lean ====
section
/-! DEFINITION. The formats of R100, the decoders of the three kinds of item (R103, R104, R112), the encoder, and the
opcode table's words. -/

namespace Sys2Proof

/-- The five formats of R100. -/
inductive Format where
  | req
  | init
  | peState
  | isState
  | spState
  deriving DecidableEq, Repr

/-- An encoded item: its format and its bits (R100). -/
inductive Code where
  /-- The 13-bit REQ word (R101). -/
  | req (w : BitVec 13)
  /-- An INIT entry as bytes: the command code, then the parameters (R104). -/
  | init (bytes : List Byte)
  /-- pe_state (R38). -/
  | peState (c : BitVec 2)
  /-- is_state (R46). -/
  | isState (c : BitVec 3)
  /-- sp_phase and sp_sub, the phase in the high bits (R51, R100). -/
  | spState (c : BitVec 5)
  deriving DecidableEq, Repr

/-- Why an item has no meaning. -/
inductive DecodeError where
  /-- An INIT item without a command byte: no entry (R104). -/
  | emptyEntry
  /-- An INIT item with command CMD_NOP and parameters: not a legal entry (R104, R113). -/
  | sentinelWithParams
  /-- is_state 110 or 111 (R46, R113). -/
  | unreachableIsState
  /-- An sp_phase and sp_sub pair that R112 does not list (R51, R113). -/
  | unreachableSpState
  /-- A number that does not fit the format's width. -/
  | wordTooWide
  deriving DecidableEq, Repr

/-- The packing REQ = {rlen, mode, data} (R101). -/
def Req.pack (r : Req) : BitVec 13 := r.rlen ++ (BitVec.ofBool r.mode ++ r.data)

/-- The fields of a REQ word (R102). -/
def Req.unpack (w : BitVec 13) : Req :=
  { data := w.extractLsb' 0 8, mode := w.getLsbD 8, rlen := w.extractLsb' 9 4 }

/-- The operation a request is: its mode alone selects it (R103). -/
def Req.toInstr (r : Req) : Instr :=
  if r.mode then .txnCmd r.data r.rlen else .txnParam r.data r.rlen

/-- The REQ opcode map; every word is legal (R103, R113). -/
def decodeReq (w : BitVec 13) : Instr := (Req.unpack w).toInstr

/-- The INIT opcode map for a build whose sentinel code is nop (R104, R113). -/
def decodeInit (nop : Byte) : List Byte → Except DecodeError Instr
  | [] => .error .emptyEntry
  | cmd :: params =>
    if cmd = nop then
      match params with
      | [] => .ok .initNop
      | _ :: _ => .error .sentinelWithParams
    else .ok (.initCmd cmd params)

/-- The PE's dispatch codes; all four are legal (R112, R113). -/
def decodePeState (c : BitVec 2) : Instr :=
  if c = 0b00#2 then .peIdle
  else if c = 0b01#2 then .peTx
  else if c = 0b10#2 then .peRx
  else .peEmit

/-- The IS's dispatch codes (R112, R113). -/
def decodeIsState (c : BitVec 3) : Except DecodeError Instr :=
  if c = 0b000#3 then .ok .isReset
  else if c = 0b001#3 then .ok .isWait
  else if c = 0b010#3 then .ok .isNext
  else if c = 0b011#3 then .ok .isCmd
  else if c = 0b100#3 then .ok .isParam
  else if c = 0b101#3 then .ok .isDone
  else .error .unreachableIsState

/-- The SP's dispatch codes (R112, R113). -/
def decodeSpState (c : BitVec 5) : Except DecodeError Instr :=
  if c = 0b00000#5 then .ok .spBringup
  else if c = 0b00100#5 then .ok .spBeginWrite
  else if c = 0b01000#5 then .ok .spRenderAddr
  else if c = 0b01001#5 then .ok .spRenderByte0
  else if c = 0b01010#5 then .ok .spRenderByte1
  else if c = 0b01100#5 then .ok .spEvolveAddr
  else if c = 0b01101#5 then .ok .spEvolveAcc
  else if c = 0b01110#5 then .ok .spEvolveWrite
  else if c = 0b10000#5 then .ok .spTransitionLoad
  else if c = 0b10001#5 then .ok .spTransitionWrite
  else .error .unreachableSpState

/-- The decoder: total on every item of every format, rejecting by name. -/
def decode (nop : Byte) : Code → Except DecodeError Instr
  | .req w => .ok (decodeReq w)
  | .init bytes => decodeInit nop bytes
  | .peState c => .ok (decodePeState c)
  | .isState c => decodeIsState c
  | .spState c => decodeSpState c

/-- The item of an instruction, written from the opcode map of R103, R104 and R112. -/
def encode (nop : Byte) : Instr → Code
  | .txnCmd d n => .req (Req.pack { data := d, mode := true, rlen := n })
  | .txnParam d n => .req (Req.pack { data := d, mode := false, rlen := n })
  | .initNop => .init [nop]
  | .initCmd c ps => .init (c :: ps)
  | .peIdle => .peState 0b00#2
  | .peTx => .peState 0b01#2
  | .peRx => .peState 0b10#2
  | .peEmit => .peState 0b11#2
  | .isReset => .isState 0b000#3
  | .isWait => .isState 0b001#3
  | .isNext => .isState 0b010#3
  | .isCmd => .isState 0b011#3
  | .isParam => .isState 0b100#3
  | .isDone => .isState 0b101#3
  | .spBringup => .spState 0b00000#5
  | .spBeginWrite => .spState 0b00100#5
  | .spRenderAddr => .spState 0b01000#5
  | .spRenderByte0 => .spState 0b01001#5
  | .spRenderByte1 => .spState 0b01010#5
  | .spEvolveAddr => .spState 0b01100#5
  | .spEvolveAcc => .spState 0b01101#5
  | .spEvolveWrite => .spState 0b01110#5
  | .spTransitionLoad => .spState 0b10000#5
  | .spTransitionWrite => .spState 0b10001#5

/-- DESIGN CHOICE (log entry 9): the bytes of a number, least significant first: byte 0 is bits 7..0. -/
def bytesOf : Nat → Nat → List Byte
  | 0, _ => []
  | k + 1, w => BitVec.ofNat 8 w :: bytesOf k (w / 256)

/-- The item of a format whose bits, numbered from 0, are w; a word wider than its format is rejected.
DESIGN CHOICE (log entry 9): an INIT word of nbytes bytes has the command in bits 7..0 and parameter i in the i + 1-th byte above them.
The spec gives an INIT entry no storage layout (R105), and no rule of the machine depends on this one. -/
def Code.ofWord (f : Format) (nbytes w : Nat) : Except DecodeError Code :=
  match f with
  | .req => if w < 2 ^ 13 then .ok (.req (BitVec.ofNat 13 w)) else .error .wordTooWide
  | .init => if w < 256 ^ nbytes then .ok (.init (bytesOf nbytes w)) else .error .wordTooWide
  | .peState => if w < 2 ^ 2 then .ok (.peState (BitVec.ofNat 2 w)) else .error .wordTooWide
  | .isState => if w < 2 ^ 3 then .ok (.isState (BitVec.ofNat 3 w)) else .error .wordTooWide
  | .spState => if w < 2 ^ 5 then .ok (.spState (BitVec.ofNat 5 w)) else .error .wordTooWide

/-- DESIGN CHOICE (log entry 9): which format a word of the opcode table belongs to when only its length in bits is known.
The table's four narrow formats overlap in one byte; in the hardware the unit that holds the code decides.
A length equal to a format's own width names that format; one whole byte is read as the first format of R112's list in which the
number is a listed code, and as an INIT command where none lists it. -/
def tableFormat (nbits w : Nat) : Format :=
  if nbits = 2 then .peState
  else if nbits = 3 then .isState
  else if nbits = 5 then .spState
  else if nbits = 13 ∨ nbits = 16 then .req
  else if nbits = 8 then
    if w < 4 then .peState
    else if w < 6 then .isState
    else match decodeSpState (BitVec.ofNat 5 w) with
      | .ok _ => if w < 32 then .spState else .init
      | .error _ => .init
  else .init

/-- The item a word of the opcode table is. -/
def tableCode (nbits w : Nat) : Except DecodeError Code :=
  Code.ofWord (tableFormat nbits w) (nbits / 8) w

/-- The instruction the decoder reads from a word of the opcode table, in a build with the default CMD_NOP. -/
def decodeTableWord (nbits w : Nat) : Option Instr :=
  match tableCode nbits w with
  | .ok c => (decode Config.defaultNop c).toOption
  | .error _ => none

end Sys2Proof
end

