-- ==== Sys2Proof/Machine/State.lean ====
section
/-! DEFINITION. The state of the core as plain data: the registers of the three machines, the two grid banks, the build it runs,
and the model's own input fields. The reset state stands at the end. -/

namespace Sys2Proof.Machine

/-- The bit phase of pe_ph: 0 is SETUP, 1 is ACTIVE (R40). -/
inductive BitPhase where
  | setup
  | active
  deriving DecidableEq, Repr

/-- The Protocol Engine's registers (R38 to R45). -/
structure PeRegs where
  /-- pe_state (R38). -/
  state : BitVec 2
  /-- pe_bit (R39). -/
  bit   : BitVec 3
  /-- pe_ph (R40). -/
  ph    : BitPhase
  /-- pe_pcnt, of Cfg.pcntWidth bits (R41). -/
  pcnt  : Nat
  /-- pe_tx (R42). -/
  tx    : Byte
  /-- pe_rx (R43). -/
  rx    : Byte
  /-- pe_rem (R44). -/
  rem   : BitVec 4
  /-- pe_dc (R45). -/
  dc    : Bool
  deriving DecidableEq, Repr

/-- The Init Sequencer's registers (R46 to R49); done is an output, not a register (R50). -/
structure IsRegs where
  /-- is_state (R46). -/
  state : BitVec 3
  /-- is_cnt, of Cfg.isCntWidth bits (R47). -/
  cnt   : Nat
  /-- is_e, of Cfg.entryWidth bits (R48). -/
  e     : Nat
  /-- is_p, of Cfg.paramWidth bits (R49). -/
  p     : Nat
  deriving DecidableEq, Repr

/-- The Simulation Pipeline's registers (R51 to R56). -/
structure SpRegs where
  /-- sp_phase (R51). -/
  phase : BitVec 3
  /-- sp_sub (R51). -/
  sub   : BitVec 2
  /-- sp_col, of Cfg.colWidth bits (R52). -/
  col   : Nat
  /-- sp_pag, of Cfg.pagWidth bits (R52). -/
  pag   : Nat
  /-- sp_cx, of Cfg.cxWidth bits (R53). -/
  cx    : Nat
  /-- sp_cy, of Cfg.cyWidth bits (R53). -/
  cy    : Nat
  /-- sp_v (R54). -/
  v     : BitVec 4
  /-- sp_n (R55). -/
  n     : BitVec 4
  /-- sp_alive (R56). -/
  alive : Bool
  deriving DecidableEq, Repr

/-- One grid bank (R57, R70): its cells by address 0..N-1, and its read-data register (R59).
The list has one bit for every address the bank has, in rising order, so equal banks are equal data. -/
structure Bank where
  cells : List Bool
  rdata : Bool
  deriving DecidableEq, Repr

/-- The two grid banks (R57). -/
structure Memory where
  cur : Bank
  nxt : Bank
  deriving DecidableEq, Repr

/-- The form of the memory of a build with n cells: each bank has exactly the addresses 0..n-1 (R70). -/
def Memory.wf (n : Nat) (m : Memory) : Bool :=
  decide (m.cur.cells.length = n) && decide (m.nxt.cells.length = n)

/-- The input ports of one cycle (R30, R31). -/
structure Input where
  miso : Bool
  rst  : Bool
  deriving DecidableEq, Repr

/-- The whole machine. -/
structure State where
  /-- The build (R9); no step changes it. -/
  cfg     : Cfg
  pe      : PeRegs
  is      : IsRegs
  sp      : SpRegs
  mem     : Memory
  /-- The model's own: the levels of miso and rst in the coming cycles, the next cycle's first.
  In a cycle it does not list, miso is a draw and rst is 0 (R278, log entry 4). -/
  inputs  : List Input
  /-- The model's own: requests of an external producer that drives the PE's request port alone, oldest first (P2, R305, log entry 5).
  The core has no such producer: this list is empty at reset and no step adds to it. -/
  extReqs : List Req
  /-- The model's own: the number of cycles so far, which gives each cycle its own draws (log entry 3). -/
  tick    : Nat
  deriving DecidableEq, Repr

/-- Why the machine could stop with a fault: there is no reason.
The core raises no exception in any state (R260), so this type has no constructor. -/
inductive Fault where
  deriving DecidableEq, Repr

/-- The Refuse outcomes of R262; none is an outcome of the hardware. -/
inductive Refusal where
  /-- An instruction without a meaning in the model. No arm of exec raises it now; safe. -/
  | notModelled (mnemonic : String)
  /-- The Cfg breaks R10: there is no machine for it (R9, R262). Raised by step; safe. -/
  | illFormedCfg
  /-- is_state or the sp_phase and sp_sub pair holds a code R112 does not list (R46, R51, R262). Raised by step's fetch; safe. -/
  | unreachableState
  /-- One bank is read and written in the same cycle (R75, R262). Raised by a bank's ports; safe, and no rule's accesses reach it. -/
  | readDuringWrite
  /-- A bank address at or above N is computed (R76, R262). Raised by a bank's ports; safe, and no reachable state reaches it. -/
  | addressOutOfRange
  deriving DecidableEq, Repr

/-- The reset values of the PE (R61). -/
def PeRegs.reset : PeRegs :=
  { state := 0b00#2, bit := 0#3, ph := .setup, pcnt := 0, tx := 0x00#8, rx := 0x00#8, rem := 0#4, dc := false }

/-- The reset values of the IS (R61). -/
def IsRegs.reset : IsRegs :=
  { state := 0b000#3, cnt := 0, e := 0, p := 0 }

/-- The reset values of the SP (R61). -/
def SpRegs.reset : SpRegs :=
  { phase := 0b000#3, sub := 0b00#2, col := 0, pag := 0, cx := 0, cy := 0, v := 0#4, n := 0#4, alive := false }

/-- The banks after the reset that ends at a tick: cur is the SEED, and nxt and both rdata registers are draws (R58, R59, R290). -/
def Memory.atReset (c : Cfg) (tick : Nat) : Memory :=
  { cur := { cells := c.seed, rdata := Config.drawCurRdata tick }
    nxt := { cells := (List.range c.cellCount).map (Config.drawNxtCell tick), rdata := Config.drawNxtRdata tick } }

/-- The reset state of a build (R61, R290), with the model's own fields as given. -/
def State.init (c : Cfg) (inputs : List Input) (extReqs : List Req) (tick : Nat) : State :=
  { cfg := c, pe := PeRegs.reset, is := IsRegs.reset, sp := SpRegs.reset, mem := Memory.atReset c tick
    inputs := inputs, extReqs := extReqs, tick := tick }

/-- The machine right after reset (R61), for the build of log entry 1, with no input listed and no external producer. -/
def State.reset : State := State.init Config.build [] [] 0

end Sys2Proof.Machine
end

