-- ==== Sys2Proof/Machine/Ops.lean ====
section
/-! DEFINITION. The shared operations: register updates, one cycle's inputs, the reset event, the bank ports, and the lockstep join of
three machines. The core has no exception entry and no return from one (R260, R265, R266); rst is its one event (R264, R290). -/

namespace Sys2Proof.Machine

/-- The least width with room for a range of values (R9, R41 to R53: clog2). -/
def clog2 (n : Nat) : Nat := if n ≤ 1 then 0 else Nat.log2 (n - 1) + 1

/-- The width of a register that holds that many values: max(1, clog2(range)) (D26). -/
def regWidth (range : Nat) : Nat := max 1 (clog2 range)

/-- An unsigned register of a width, incremented (R13, D26). -/
def bump (width v : Nat) : Nat := (v + 1) % 2 ^ width

/-- s with the PE's registers replaced. -/
def State.setPe (s : State) (p : PeRegs) : State := { s with pe := p }

/-- s with the IS's registers replaced. -/
def State.setIs (s : State) (r : IsRegs) : State := { s with is := r }

/-- s with the SP's registers replaced. -/
def State.setSp (s : State) (r : SpRegs) : State := { s with sp := r }

/-- s with the banks replaced. -/
def State.setMem (s : State) (m : Memory) : State := { s with mem := m }

/-- The level of rst in this cycle (R30, log entry 4). -/
def State.rst (s : State) : Bool :=
  match s.inputs with
  | [] => false
  | i :: _ => i.rst

/-- The level of miso k cycles from now, if the inputs run on (R31, R278, log entry 4). -/
def State.misoAt (s : State) (k : Nat) : Bool :=
  match s.inputs[k]? with
  | some i => i.miso
  | none => Config.drawMiso (s.tick + k)

/-- The level of miso in this cycle. -/
def State.miso (s : State) : Bool := s.misoAt 0

/-- The end of a cycle: its inputs are gone and the next cycle has its own draws. -/
def State.advance (s : State) : State := { s with inputs := s.inputs.tail, tick := s.tick + 1 }

/-- What a cycle with rst = 1 leaves (R290): the reset state, cur reloaded from SEED, nxt and both rdata registers drawn anew.
What stands outside the core goes on: the coming inputs, and an external producer's requests.
DESIGN CHOICE (log entry 5): a request on the port in this cycle counts as not accepted, also where the PE is in IDLE and R15's valid and
ready both hold, so an external producer (extReqs, not extAfter) still offers it in the reset state. R290 says only that the core takes no
other update. -/
def State.afterRst (s : State) : State := State.init s.cfg s.inputs.tail s.extReqs (s.tick + 1)

/-- What one cycle asks of a bank's two ports (R57, R72, R73). -/
structure BankPorts where
  read  : Option Nat := none
  write : Option (Nat × Bool) := none
  deriving DecidableEq, Repr

/-- MemRead(B, a) and nothing else (R16). -/
def BankPorts.memRead (a : Nat) : BankPorts := { read := some a }

/-- MemWrite(B, a, v) and nothing else (R16). -/
def BankPorts.memWrite (a : Nat) (v : Bool) : BankPorts := { write := some (a, v) }

/-- Neither port of the bank is used. -/
def BankPorts.quiet : BankPorts := {}

/-- The stored bit B[a]; a bank has no other address than its own (R70). -/
def Bank.cell (b : Bank) (a : Nat) : Option Bool := b.cells[a]?

/-- One cycle of a bank (R16, R72, R73): a read lands in rdata, a write in the cell, at the end of the cycle; with no read, rdata keeps
its value. Both at once, and an address the bank does not have, are refused (R75, R76). -/
def Bank.clock (b : Bank) (c : BankPorts) : Except Refusal Bank :=
  match c.read, c.write with
  | none, none => .ok b
  | some a, none =>
    match b.cell a with
    | some v => .ok { b with rdata := v }
    | none => .error .addressOutOfRange
  | none, some (a, v) =>
    match b.cell a with
    | some _ => .ok { b with cells := b.cells.set a v }
    | none => .error .addressOutOfRange
  | some _, some _ => .error .readDuringWrite

/-- The end of an SP cycle: its registers, and both banks clocked with what the phase asks of them (R74). -/
def spCommit (s : State) (r : SpRegs) (cur nxt : BankPorts) : Host.Outcome State Fault Refusal :=
  match s.mem.cur.clock cur, s.mem.nxt.clock nxt with
  | .ok c, .ok n => .next ((s.setSp r).setMem { cur := c, nxt := n })
  | .error r, _ => .refused r
  | .ok _, .error r => .refused r

/-- The lockstep join (R14, R264): each machine's update is computed from the same state s, and all land at the end of the cycle.
The PE's registers come from a, the IS's from b, the SP's and the banks from c; ext is what the external producer still offers. -/
def joinCycle (s : State) (ext : List Req) (a b c : Host.Outcome State Fault Refusal) : Host.Outcome State Fault Refusal :=
  match a, b, c with
  | .next p, .next q, .next r =>
    .next { s with pe := p.pe, is := q.is, sp := r.sp, mem := r.mem, extReqs := ext }.advance
  | .fault f, _, _ => .fault f
  | .refused r, _, _ => .refused r
  | .next _, .fault f, _ => .fault f
  | .next _, .refused r, _ => .refused r
  | .next _, .next _, .fault f => .fault f
  | .next _, .next _, .refused r => .refused r

end Sys2Proof.Machine
end

