-- ==== Sys2Proof/Machine/Operands.lean ====
section
/-! DEFINITION. What the rules read: register widths, the state codes, Init Table bytes, the wrap function and grid addresses, the pixel
byte, the producers' requests and the multiplexer. -/

namespace Sys2Proof.Machine

/-! Register widths. -/

/-- ADDR_W (R9). -/
def addrWidth (c : Cfg) : Nat := regWidth c.cellCount

/-- The width of pe_pcnt (R41). -/
def pcntWidth (c : Cfg) : Nat := regWidth (max c.tSetup c.tActive)

/-- The width of is_cnt (R47). -/
def isCntWidth (c : Cfg) : Nat := regWidth (max c.tReset c.tRelease)

/-- The width of is_e (R48). -/
def entryWidth (c : Cfg) : Nat := regWidth (c.initTable.length + 1)

/-- PMAX: the largest parameter count in the table (R49). -/
def maxParams (c : Cfg) : Nat := c.initTable.foldl (fun m e => max m e.params.length) 0

/-- The width of is_p (R49). -/
def paramWidth (c : Cfg) : Nat := regWidth (maxParams c)

/-- The width of sp_col (R52). -/
def colWidth (c : Cfg) : Nat := regWidth c.dispCols

/-- The width of sp_pag (R52). -/
def pagWidth (c : Cfg) : Nat := regWidth c.dispPages

/-- The width of sp_cx (R53). -/
def cxWidth (c : Cfg) : Nat := regWidth c.gridW

/-- The width of sp_cy (R53). -/
def cyWidth (c : Cfg) : Nat := regWidth c.gridH

/-! State codes (R38, R46, R51). -/

@[simp] abbrev peIDLE : BitVec 2 := 0b00#2
@[simp] abbrev peTX : BitVec 2 := 0b01#2
@[simp] abbrev peRX : BitVec 2 := 0b10#2
@[simp] abbrev peEMIT : BitVec 2 := 0b11#2

@[simp] abbrev isRESET : BitVec 3 := 0b000#3
@[simp] abbrev isWAIT : BitVec 3 := 0b001#3
@[simp] abbrev isNEXT : BitVec 3 := 0b010#3
@[simp] abbrev isCMD : BitVec 3 := 0b011#3
@[simp] abbrev isPARAM : BitVec 3 := 0b100#3
@[simp] abbrev isDONE : BitVec 3 := 0b101#3

@[simp] abbrev spBRINGUP : BitVec 3 := 0b000#3
@[simp] abbrev spBEGIN : BitVec 3 := 0b001#3
@[simp] abbrev spRENDER : BitVec 3 := 0b010#3
@[simp] abbrev spEVOLVE : BitVec 3 := 0b011#3
@[simp] abbrev spTRANSITION : BitVec 3 := 0b100#3

/-- The sub-state 00: ADDR of RENDER and EVOLVE, LOAD of TRANSITION, and the only one of BRINGUP and BEGIN. -/
@[simp] abbrev sub0 : BitVec 2 := 0b00#2
/-- The sub-state 01: BYTE0 of RENDER, ACC of EVOLVE, WRITE of TRANSITION. -/
@[simp] abbrev sub1 : BitVec 2 := 0b01#2
/-- The sub-state 10: BYTE1 of RENDER, WRITE of EVOLVE. -/
@[simp] abbrev sub2 : BitVec 2 := 0b10#2

/-! The Init Table ROM, read combinationally (R77). -/

/-- ROM(e): entry e of the table; a draw where the table has none (log entry 8). -/
def romEntry (c : Cfg) (e : Nat) : Entry := c.initTable[e]?.getD (Config.drawEntry e)

/-- params_e[p]; a draw where the entry has none (log entry 8). -/
def romParam (c : Cfg) (e p : Nat) : Byte := (romEntry c e).params[p]?.getD (Config.drawParam e p)

/-! Grid addresses. -/

/-- The wrap function of a dimension (R230). -/
def wrap (d c : Nat) : Nat := if c = 0 then d - 1 else if c = d + 1 then 0 else c - 1

/-- addr(X, Y) (R71). -/
def cellAddr (c : Cfg) (x y : Nat) : Nat := y * c.gridW + x

/-- a_v of target (cx, cy) (R231). -/
def visitAddr (c : Cfg) (cx cy v : Nat) : Nat :=
  cellAddr c (wrap c.gridW (cx + v % 3)) (wrap c.gridH (cy + v / 3))

/-- The address of the cell that pixel (col, pag) shows (R204, R207). -/
def pixelAddr (c : Cfg) (col pag : Nat) : Nat :=
  cellAddr c (wrap c.gridW (col / c.scale + 1)) (wrap c.gridH (pag / c.scale + 1))

/-- The pixel byte of a cell (R110, R201). -/
def pixelByte (alive : Bool) : Byte := if alive then Config.pixelOn else Config.pixelOff

/-- A seed text read into SEED: rows top to bottom, each left to right (R115, R293). -/
def seedOfText (alive : Char) (rows : List (List Char)) : List Bool :=
  rows.flatMap fun row => row.map fun ch => ch == alive

/-! The request port (R35, R36). -/

/-- is_req_valid (R170). -/
def State.isReqValid (s : State) : Bool := s.is.state == isCMD || s.is.state == isPARAM

/-- The IS's request lines (R170); is_req_data is a draw where it is not valid. -/
def State.isReq (s : State) : Req :=
  { data :=
      if s.is.state = isCMD then (romEntry s.cfg s.is.e).cmd
      else if s.is.state = isPARAM then romParam s.cfg s.is.e s.is.p
      else Config.drawIsReqData s.tick
    mode := s.is.state == isCMD
    rlen := 0#4 }

/-- sp_sub is BYTE0 or BYTE1 in RENDER (R201). -/
def State.spOffersPixel (s : State) : Bool :=
  s.sp.phase == spRENDER && (s.sp.sub == sub1 || s.sp.sub == sub2)

/-- sp_req_valid (R201). -/
def State.spReqValid (s : State) : Bool := s.sp.phase == spBEGIN || s.spOffersPixel

/-- The SP's request lines (R201); sp_req_data is a draw where it is not valid. -/
def State.spReq (s : State) : Req :=
  { data :=
      if s.sp.phase = spBEGIN then s.cfg.cmdRamwr
      else if s.spOffersPixel then pixelByte s.mem.cur.rdata
      else Config.drawSpReqData s.tick
    mode := s.sp.phase == spBEGIN
    rlen := 0#4 }

/-- Who drives the request port. -/
inductive Producer where
  /-- The external producer of log entry 5, while it has a request. -/
  | ext
  | initSequencer
  | pipeline
  deriving DecidableEq, Repr

/-- done (R50). -/
def State.done (s : State) : Bool := s.is.state == isDONE

/-- The multiplexer's choice: the IS while done = 0, the SP from then on (R36).
An external producer with a request takes the port (log entry 5); the core itself has none. -/
def State.selected (s : State) : Producer :=
  if s.extReqs.isEmpty then (if s.done then .pipeline else .initSequencer) else .ext

/-- req_valid (R36). -/
def State.reqValid (s : State) : Bool :=
  match s.selected with
  | .ext => true
  | .initSequencer => s.isReqValid
  | .pipeline => s.spReqValid

/-- req_data, req_mode and req_rlen (R36). -/
def State.reqLines (s : State) : Req :=
  match s.selected with
  | .ext => s.extReqs.headD s.spReq
  | .initSequencer => s.isReq
  | .pipeline => s.spReq

/-- The request on the port in this cycle, if one is valid; the PE reads the lines only then (R131). -/
def State.port (s : State) : Option Req := if s.reqValid then some s.reqLines else none

end Sys2Proof.Machine
end

