-- ==== Sys2Proof/Machine/Flags.lean ====
section
/-! DEFINITION. One-bit values and the output ports: the handshakes, the lines, the life rule. The core has no condition codes (R60). -/

namespace Sys2Proof.Machine

/-- req_ready (R130). -/
def State.reqReady (s : State) : Bool := s.pe.state == peIDLE

/-- is_fire: the IS is selected, valid and the PE ready (R36). -/
def State.isFire (s : State) : Bool := (s.selected == .initSequencer) && s.isReqValid && s.reqReady

/-- sp_fire: the SP is selected, valid and the PE ready (R36). -/
def State.spFire (s : State) : Bool := (s.selected == .pipeline) && s.spReqValid && s.reqReady

/-- The external producer's request is accepted (R15, log entry 5). -/
def State.extFire (s : State) : Bool := (s.selected == .ext) && s.reqReady

/-- What the external producer still offers after this cycle: it holds a request until it fires (R305). -/
def State.extAfter (s : State) : List Req := if s.extFire then s.extReqs.tail else s.extReqs

/-- life(a, n) (R234). -/
def life (a : Bool) (n : Nat) : Bool := (a && (n == 2 || n == 3)) || (!a && n == 3)

/-- sclk (R130). -/
def State.sclk (s : State) : Bool := (s.pe.state == peTX || s.pe.state == peRX) && (s.pe.ph == .active)

/-- dc (R130). -/
def State.dc (s : State) : Bool := s.pe.dc

/-- mosi: the bit being sent in TX, a draw elsewhere (R135). -/
def State.mosi (s : State) : Bool :=
  if s.pe.state = peTX then s.pe.tx.getLsbD s.pe.bit.toNat else Config.drawMosi s.tick

/-- rsp_valid (R130). -/
def State.rspValid (s : State) : Bool := s.pe.state == peEMIT

/-- rsp_data: the byte received in EMIT, a draw elsewhere (R136). -/
def State.rspData (s : State) : Byte := if s.pe.state = peEMIT then s.pe.rx else Config.drawRspData s.tick

/-- is_rst_n (R170). -/
def State.isRstN (s : State) : Bool := s.is.state != isRESET

/-- lcd_rst_n: the IS's line while done = 0, then 1 (R37). -/
def State.lcdRstN (s : State) : Bool := if s.done then true else s.isRstN

/-- backlight: 1 in every cycle (R32, R272). -/
def State.backlight (_ : State) : Bool := true

/-- The output ports of one cycle (R31 to R33). -/
structure Lines where
  sclk      : Bool
  mosi      : Bool
  dc        : Bool
  lcdRstN   : Bool
  backlight : Bool
  rspValid  : Bool
  rspData   : Byte
  deriving DecidableEq, Repr

/-- What the outside sees in this cycle: Moore outputs of the state (R14). -/
def State.lines (s : State) : Lines :=
  { sclk := s.sclk, mosi := s.mosi, dc := s.dc, lcdRstN := s.lcdRstN, backlight := s.backlight
    rspValid := s.rspValid, rspData := s.rspData }

end Sys2Proof.Machine
end

