-- ==== Sys2Proof/Machine/Evolve.lean ====
section
/-! DEFINITION. The Simulation Pipeline's evolve and transition: the meanings of SP_EVOLVE_ADDR, SP_EVOLVE_ACC, SP_EVOLVE_WRITE,
SP_TRANSITION_LOAD and SP_TRANSITION_WRITE (R236 to R238, R241, R242). A meaning changes the SP's registers and the banks only. -/

namespace Sys2Proof.Machine

/-- One visit's bit taken in: the centre's into sp_alive, any other into sp_n, and the next visit or WRITE (R237). -/
def accumulateRule (d : Bool) (r : SpRegs) : SpRegs :=
  { r with
    alive := if r.v = 4#4 then d else r.alive
    n := if r.v = 4#4 then r.n else r.n + (BitVec.ofBool d).setWidth 4
    v := if r.v = 8#4 then r.v else r.v + 1#4
    sub := if r.v = 8#4 then sub2 else sub0 }

/-- The row-major scan over cells: the next cell in sub-state 00, or, past the last one, the phase that follows (R238, R242). -/
def nextCellRule (c : Cfg) (after : BitVec 3) (r : SpRegs) : SpRegs :=
  if r.cx + 1 ≠ c.gridW then { r with cx := bump (cxWidth c) r.cx, sub := sub0 }
  else if r.cy + 1 ≠ c.gridH then { r with cx := 0, cy := bump (cyWidth c) r.cy, sub := sub0 }
  else { r with cx := 0, cy := 0, phase := after, sub := sub0 }

/-- SP_EVOLVE_ADDR (R236). -/
def execSpEvolveAddr (s : State) : Host.Outcome State Fault Refusal :=
  spCommit s { s.sp with sub := sub1 } (.memRead (visitAddr s.cfg s.sp.cx s.sp.cy s.sp.v.toNat)) .quiet

/-- SP_EVOLVE_ACC (R237). -/
def execSpEvolveAcc (s : State) : Host.Outcome State Fault Refusal :=
  spCommit s (accumulateRule s.mem.cur.rdata s.sp) .quiet .quiet

/-- SP_EVOLVE_WRITE (R238). -/
def execSpEvolveWrite (s : State) : Host.Outcome State Fault Refusal :=
  spCommit s (nextCellRule s.cfg spTRANSITION { s.sp with n := 0#4, v := 0#4 }) .quiet
    (.memWrite (cellAddr s.cfg s.sp.cx s.sp.cy) (life s.sp.alive s.sp.n.toNat))

/-- SP_TRANSITION_LOAD (R241). -/
def execSpTransitionLoad (s : State) : Host.Outcome State Fault Refusal :=
  spCommit s { s.sp with sub := sub1 } .quiet (.memRead (cellAddr s.cfg s.sp.cx s.sp.cy))

/-- SP_TRANSITION_WRITE (R242). -/
def execSpTransitionWrite (s : State) : Host.Outcome State Fault Refusal :=
  spCommit s (nextCellRule s.cfg spBEGIN s.sp) (.memWrite (cellAddr s.cfg s.sp.cx s.sp.cy) s.mem.nxt.rdata) .quiet

end Sys2Proof.Machine
end

