-- ==== Sys2Proof/Machine/InitSequencer.lean ====
section
/-! DEFINITION. The Init Sequencer: the meanings of IS_RESET, IS_WAIT, IS_NEXT, IS_CMD, IS_PARAM and IS_DONE (R171 to R176).
A meaning changes the IS's registers only; step joins it with the other two machines (R264). -/

namespace Sys2Proof.Machine

/-- Counting t cycles in is_cnt and then going to a state (R171, R172). -/
def isCountRule (c : Cfg) (t : Nat) (after : BitVec 3) (r : IsRegs) : IsRegs :=
  if r.cnt = t - 1 then { r with cnt := 0, state := after } else { r with cnt := bump (isCntWidth c) r.cnt }

/-- The dispatch of entry is_e (R173). -/
def isNextRule (c : Cfg) (r : IsRegs) : IsRegs :=
  if r.e = c.initTable.length then { r with state := isDONE }
  else if (romEntry c r.e).cmd = c.cmdNop then { r with e := bump (entryWidth c) r.e, cnt := 0, state := isWAIT }
  else { r with state := isCMD }

/-- The command byte, held until it fires (R174). -/
def isCmdRule (c : Cfg) (fire : Bool) (r : IsRegs) : IsRegs :=
  if fire then
    if (romEntry c r.e).params.length = 0 then { r with e := bump (entryWidth c) r.e, state := isNEXT }
    else { r with p := 0, state := isPARAM }
  else r

/-- A parameter byte, held until it fires (R175). -/
def isParamRule (c : Cfg) (fire : Bool) (r : IsRegs) : IsRegs :=
  if fire then
    if r.p + 1 = (romEntry c r.e).params.length then { r with p := 0, e := bump (entryWidth c) r.e, state := isNEXT }
    else { r with p := bump (paramWidth c) r.p }
  else r

/-- IS_RESET (R171). -/
def execIsReset (s : State) : Host.Outcome State Fault Refusal := .next (s.setIs (isCountRule s.cfg s.cfg.tReset isWAIT s.is))

/-- IS_WAIT (R172). -/
def execIsWait (s : State) : Host.Outcome State Fault Refusal := .next (s.setIs (isCountRule s.cfg s.cfg.tRelease isNEXT s.is))

/-- IS_NEXT (R173). -/
def execIsNext (s : State) : Host.Outcome State Fault Refusal := .next (s.setIs (isNextRule s.cfg s.is))

/-- IS_CMD (R174). -/
def execIsCmd (s : State) : Host.Outcome State Fault Refusal := .next (s.setIs (isCmdRule s.cfg s.isFire s.is))

/-- IS_PARAM (R175). -/
def execIsParam (s : State) : Host.Outcome State Fault Refusal := .next (s.setIs (isParamRule s.cfg s.isFire s.is))

/-- IS_DONE: no register changes (R176). -/
def execIsDone (s : State) : Host.Outcome State Fault Refusal := .next s

end Sys2Proof.Machine
end

