-- ==== Sys2Proof/Machine/ProtocolEngine.lean ====
section
/-! DEFINITION. The Protocol Engine: one rule per pe_state (R131 to R134), and the meanings of PE_IDLE, PE_TX, PE_RX and PE_EMIT.
A meaning changes the PE's registers only; step joins it with the other two machines (R264). -/

namespace Sys2Proof.Machine

/-- PE_IDLE with what the request port offers (R131). -/
def peIdleRule (req : Option Req) (p : PeRegs) : PeRegs :=
  match req with
  | none => p
  | some r =>
    { p with tx := r.data, dc := r.mode, rem := r.rlen, bit := 7#3, ph := .setup, pcnt := 0, state := peTX }

/-- One cycle of a bit slot (R106): the setup phase, then the active phase, each counted by pe_pcnt.
atEnd is what the last cycle of the active phase does beyond pe_pcnt <- 0 and pe_ph <- SETUP. -/
def bitSlotRule (c : Cfg) (p : PeRegs) (atEnd : PeRegs → PeRegs) : PeRegs :=
  match p.ph with
  | .setup =>
    if p.pcnt = c.tSetup - 1 then { p with ph := .active, pcnt := 0 }
    else { p with pcnt := bump (pcntWidth c) p.pcnt }
  | .active =>
    if p.pcnt ≠ c.tActive - 1 then { p with pcnt := bump (pcntWidth c) p.pcnt }
    else atEnd { p with pcnt := 0, ph := .setup }

/-- The end of a request bit's pulse (R132). -/
def txBitEnd (p : PeRegs) : PeRegs :=
  if p.bit ≠ 0#3 then { p with bit := p.bit - 1#3 }
  else if p.rem = 0#4 then { p with dc := false, state := peIDLE }
  else { p with dc := false, bit := 7#3, state := peRX }

/-- PE_TX (R132). -/
def peTxRule (c : Cfg) (p : PeRegs) : PeRegs := bitSlotRule c p txBitEnd

/-- pe_rx <- {pe_rx[6:0], miso} (R133). -/
def shiftIn (rx : Byte) (miso : Bool) : Byte := rx.extractLsb' 0 7 ++ BitVec.ofBool miso

/-- The end of a response bit's pulse: the sample, and the next bit or EMIT (R133, R137). -/
def rxBitEnd (miso : Bool) (p : PeRegs) : PeRegs :=
  if p.bit ≠ 0#3 then { p with rx := shiftIn p.rx miso, bit := p.bit - 1#3 }
  else { p with rx := shiftIn p.rx miso, state := peEMIT }

/-- PE_RX (R133). -/
def peRxRule (c : Cfg) (miso : Bool) (p : PeRegs) : PeRegs := bitSlotRule c p (rxBitEnd miso)

/-- PE_EMIT (R134). -/
def peEmitRule (p : PeRegs) : PeRegs :=
  if p.rem = 1#4 then { p with rem := p.rem - 1#4, state := peIDLE }
  else { p with rem := p.rem - 1#4, bit := 7#3, ph := .setup, pcnt := 0, state := peRX }

/-- One cycle of the PE: the rule of its state (R112). -/
def peRule (c : Cfg) (req : Option Req) (miso : Bool) (p : PeRegs) : PeRegs :=
  if p.state = peIDLE then peIdleRule req p
  else if p.state = peTX then peTxRule c p
  else if p.state = peRX then peRxRule c miso p
  else peEmitRule p

/-- PE_IDLE (R131). -/
def execPeIdle (s : State) : Host.Outcome State Fault Refusal := .next (s.setPe (peIdleRule s.port s.pe))

/-- PE_TX (R132). -/
def execPeTx (s : State) : Host.Outcome State Fault Refusal := .next (s.setPe (peTxRule s.cfg s.pe))

/-- PE_RX (R133). -/
def execPeRx (s : State) : Host.Outcome State Fault Refusal := .next (s.setPe (peRxRule s.cfg s.miso s.pe))

/-- PE_EMIT (R134). -/
def execPeEmit (s : State) : Host.Outcome State Fault Refusal := .next (s.setPe (peEmitRule s.pe))

end Sys2Proof.Machine
end

