-- ==== Sys2Proof/Machine/Transaction.lean ====
section
/-! DEFINITION. The request operations TXN_CMD and TXN_PARAM (R138, R139): whole transactions of the PE, run cycle by cycle with the PE's
own rules. Their operand is the request a producer offers; the other machines and the banks are not touched (log entry 6). -/

namespace Sys2Proof.Machine

/-- One cycle of the PE alone, with what is offered to it.
The error side is the state a cycle with rst = 1 leaves: what was in flight is abandoned (R290). -/
def peCycle (req : Option Req) (s : State) : Except State State :=
  if s.rst then .error s.afterRst
  else .ok (s.setPe (peRule s.cfg req s.miso s.pe)).advance

/-- More cycles than the PE takes to come back to IDLE from any register values: at most 17 bytes of 8 slots, each phase at most twice
round its counter (R145, log entry 6). -/
def peBusyBound (c : Cfg) : Nat := 17 * (8 * (4 * 2 ^ pcntWidth c + 2) + 1)

/-- The PE alone, nothing offered, until it is in IDLE. -/
def runToIdle : Nat → State → Except State State
  | 0, s => .ok s
  | k + 1, s => if s.pe.state = peIDLE then .ok s else (peCycle none s).bind (runToIdle k)

/-- Offering a request until fire (R15, R143): the PE reads it in its first IDLE cycle and accepts it there. -/
def submit (r : Req) (s : State) : Except State State :=
  (runToIdle (peBusyBound s.cfg) s).bind (peCycle (some r))

/-- A transaction (R138): wait until fire, then all its bits and response bytes, until the PE is in IDLE again. -/
def transact (r : Req) (s : State) : Except State State :=
  (submit r s).bind fun t => runToIdle (peBusyBound t.cfg) t

/-- The end of an operation of many cycles: complete, or abandoned by rst in the reset state (R290). -/
def finish : Except State State → Host.Outcome State Fault Refusal
  | .ok s => .next s
  | .error s => .next s

/-- TXN_CMD (R138). -/
def execTxnCmd (data : Byte) (rlen : BitVec 4) (s : State) : Host.Outcome State Fault Refusal :=
  finish (transact { data := data, mode := true, rlen := rlen } s)

/-- TXN_PARAM (R139). -/
def execTxnParam (data : Byte) (rlen : BitVec 4) (s : State) : Host.Outcome State Fault Refusal :=
  finish (transact { data := data, mode := false, rlen := rlen } s)

end Sys2Proof.Machine
end

