-- ==== Sys2Proof/Machine/InitTable.lean ====
section
/-! DEFINITION. The Init Table operations INIT_CMD and INIT_NOP (R177, R178): a whole entry, from the IS_NEXT cycle that dispatches it to
the next IS_NEXT cycle. The PE runs on in those cycles; the SP waits in BRINGUP and the banks are not touched (log entry 7). -/

namespace Sys2Proof.Machine

/-- Submitting requests one after another, each when the PE has accepted the one before (R177). -/
def submitAll : List Req → State → Except State State
  | [], s => .ok s
  | r :: rs, s => (submit r s).bind (submitAll rs)

/-- Cycles in which the IS offers nothing and the PE goes on with what it has (R172). -/
def waitCycles : Nat → State → Except State State
  | 0, s => .ok s
  | k + 1, s => (peCycle none s).bind (waitCycles k)

/-- The requests of an entry, in order, each with rlen = 0 (R116, R177, R182). -/
def entryRequests (cmd : Byte) (params : List Byte) : List Req :=
  { data := cmd, mode := true, rlen := 0#4 } :: params.map fun p => { data := p, mode := false, rlen := 0#4 }

/-- INIT_CMD (R177): the IS_NEXT cycle, then one transaction per byte, going on as soon as each is accepted.
Afterwards the IS is in NEXT at the following entry (R174, R175). -/
def execInitCmd (cmd : Byte) (params : List Byte) (s : State) : Host.Outcome State Fault Refusal :=
  finish (((peCycle none s).bind (submitAll (entryRequests cmd params))).map fun t =>
    t.setIs { s.is with
      state := isNEXT
      e := bump (entryWidth s.cfg) s.is.e
      p := if params.isEmpty then s.is.p else 0 })

/-- INIT_NOP (R178): the IS_NEXT cycle, then a wait of T_RELEASE cycles; no byte is sent and the reset line is not touched.
Afterwards the IS is in NEXT at the following entry (R172, R173). -/
def execInitNop (s : State) : Host.Outcome State Fault Refusal :=
  finish (((peCycle none s).bind (waitCycles s.cfg.tRelease)).map fun t =>
    t.setIs { s.is with state := isNEXT, cnt := 0, e := bump (entryWidth s.cfg) s.is.e })

end Sys2Proof.Machine
end

