-- ==== Sys2Proof/Machine/Render.lean ====
section
/-! DEFINITION. The Simulation Pipeline's bring-up, begin-write and render: the meanings of SP_BRINGUP, SP_BEGIN_WRITE, SP_RENDER_ADDR,
SP_RENDER_BYTE0 and SP_RENDER_BYTE1 (R202 to R206). A meaning changes the SP's registers and the banks only. -/

namespace Sys2Proof.Machine

/-- Going on with the frame after a pixel's second byte: the next pixel, the next row, or EVOLVE (R206). -/
def nextPixelRule (c : Cfg) (r : SpRegs) : SpRegs :=
  if r.col + 1 ≠ c.dispCols then { r with col := bump (colWidth c) r.col, sub := sub0 }
  else if r.pag + 1 ≠ c.dispPages then { r with col := 0, pag := bump (pagWidth c) r.pag, sub := sub0 }
  else { r with col := 0, pag := 0, cx := 0, cy := 0, v := 0#4, n := 0#4, phase := spEVOLVE, sub := sub0 }

/-- SP_BRINGUP (R202). -/
def execSpBringup (s : State) : Host.Outcome State Fault Refusal :=
  spCommit s (if s.done then { s.sp with phase := spBEGIN, sub := sub0 } else s.sp) .quiet .quiet

/-- SP_BEGIN_WRITE (R203). -/
def execSpBeginWrite (s : State) : Host.Outcome State Fault Refusal :=
  spCommit s (if s.spFire then { s.sp with col := 0, pag := 0, phase := spRENDER, sub := sub0 } else s.sp) .quiet .quiet

/-- SP_RENDER_ADDR (R204). -/
def execSpRenderAddr (s : State) : Host.Outcome State Fault Refusal :=
  spCommit s { s.sp with sub := sub1 } (.memRead (pixelAddr s.cfg s.sp.col s.sp.pag)) .quiet

/-- SP_RENDER_BYTE0 (R205). -/
def execSpRenderByte0 (s : State) : Host.Outcome State Fault Refusal :=
  spCommit s (if s.spFire then { s.sp with sub := sub2 } else s.sp) .quiet .quiet

/-- SP_RENDER_BYTE1 (R206). -/
def execSpRenderByte1 (s : State) : Host.Outcome State Fault Refusal :=
  spCommit s (if s.spFire then nextPixelRule s.cfg s.sp else s.sp) .quiet .quiet

end Sys2Proof.Machine
end

