-- ==== Sys2Proof/Machine/Dispatch.lean ====
section
/-! DEFINITION. One arm per row of the opcode table. -/

namespace Sys2Proof.Machine

def exec (i : Instr) (s : State) : Host.Outcome State Fault Refusal :=
  match i with
  | .txnCmd data rlen => Sys2Proof.Machine.execTxnCmd data rlen s
  | .txnParam data rlen => Sys2Proof.Machine.execTxnParam data rlen s
  | .initNop => Sys2Proof.Machine.execInitNop s
  | .initCmd cmd params => Sys2Proof.Machine.execInitCmd cmd params s
  | .peIdle => Sys2Proof.Machine.execPeIdle s
  | .peTx => Sys2Proof.Machine.execPeTx s
  | .peRx => Sys2Proof.Machine.execPeRx s
  | .peEmit => Sys2Proof.Machine.execPeEmit s
  | .isReset => Sys2Proof.Machine.execIsReset s
  | .isWait => Sys2Proof.Machine.execIsWait s
  | .isNext => Sys2Proof.Machine.execIsNext s
  | .isCmd => Sys2Proof.Machine.execIsCmd s
  | .isParam => Sys2Proof.Machine.execIsParam s
  | .isDone => Sys2Proof.Machine.execIsDone s
  | .spBringup => Sys2Proof.Machine.execSpBringup s
  | .spBeginWrite => Sys2Proof.Machine.execSpBeginWrite s
  | .spRenderAddr => Sys2Proof.Machine.execSpRenderAddr s
  | .spRenderByte0 => Sys2Proof.Machine.execSpRenderByte0 s
  | .spRenderByte1 => Sys2Proof.Machine.execSpRenderByte1 s
  | .spEvolveAddr => Sys2Proof.Machine.execSpEvolveAddr s
  | .spEvolveAcc => Sys2Proof.Machine.execSpEvolveAcc s
  | .spEvolveWrite => Sys2Proof.Machine.execSpEvolveWrite s
  | .spTransitionLoad => Sys2Proof.Machine.execSpTransitionLoad s
  | .spTransitionWrite => Sys2Proof.Machine.execSpTransitionWrite s

end Sys2Proof.Machine
end

