-- ==== Sys2Proof/Machine/Fetch.lean ====
section
/-! DEFINITION. What each machine runs in a cycle: its dispatch code, decoded (R112); and where a table word is put so that the next cycle
runs it. -/

namespace Sys2Proof.Machine

/-- The PE's dispatch code (R38). -/
def State.peCode (s : State) : Code := .peState s.pe.state

/-- The IS's dispatch code (R46). -/
def State.isCode (s : State) : Code := .isState s.is.state

/-- The SP's dispatch code, sp_phase in the high bits (R51, R100). -/
def State.spCode (s : State) : Code := .spState (s.sp.phase ++ s.sp.sub)

/-- The three instructions of this cycle, one per machine; a code without a meaning is refused (R113, R262). -/
def fetchCycle (s : State) : Except Refusal (Instr × Instr × Instr) :=
  match decode s.cfg.cmdNop s.peCode, decode s.cfg.cmdNop s.isCode, decode s.cfg.cmdNop s.spCode with
  | .ok i, .ok j, .ok k => .ok (i, j, k)
  | _, _, _ => .error .unreachableState

/-- s with rst = 0 in the coming cycle, so that the cycle runs its instructions. -/
def State.withoutRst (s : State) : State :=
  { s with inputs := match s.inputs with
      | [] => []
      | i :: rest => { i with rst := false } :: rest }

/-- s with an item where the unit that decodes it takes it from: the state register of its machine; the request port, with the PE in IDLE
and the external producer offering it; the Init Table, with the IS in NEXT at its first entry (log entry 9). -/
def State.withCode (s : State) : Code → State
  | .req w => { s with extReqs := Req.unpack w :: s.extReqs, pe := { s.pe with state := peIDLE } }
  | .init [] => s
  | .init (cmd :: params) =>
    { s with
      cfg := { s.cfg with initTable := [{ cmd := cmd, params := params }] }
      is := { s.is with state := isNEXT, e := 0 } }
  | .peState c => { s with pe := { s.pe with state := c } }
  | .isState c => { s with is := { s.is with state := c } }
  | .spState c => { s with sp := { s.sp with phase := c.extractLsb' 2 3, sub := c.extractLsb' 0 2 } }

/-- s with a table word placed for the next cycle; a number that is no item changes nothing but rst. -/
def placeTableWord (s : State) (nbits w : Nat) : State :=
  match tableCode nbits w with
  | .ok c => s.withoutRst.withCode c
  | .error _ => s.withoutRst

end Sys2Proof.Machine
end

