-- ==== Sys2Proof/Machine/Step.lean ====
section
/-! DEFINITION. One step is one clock cycle of the whole core (R14, R264). -/

namespace Sys2Proof.Machine

/-- One cycle: a Cfg that breaks R10 has no machine (R9); rst comes first (R264, R290); otherwise the three machines run the
instructions of their state codes from the same state, and all updates land together. -/
def step (s : State) : Host.Outcome State Fault Refusal :=
  if s.cfg.wf then
    if s.rst then .next s.afterRst
    else
      match fetchCycle s with
      | .ok (i, j, k) => joinCycle s s.extAfter (exec i s) (exec j s) (exec k s)
      | .error r => .refused r
  else .refused .illFormedCfg

/-- s with a table word where step fetches its next instruction. -/
def State.withFetchWord (s : State) (nbits w : Nat) : State := placeTableWord s nbits w

end Sys2Proof.Machine
end

