-- ==== Sys2Proof/Safety.lean ====
section
/-! DEFINITION. The vocabulary of claims: the invariant of a safe run, the obligations on whoever chooses a Cfg, the numbers of the
reference schedule, what a run puts on its ports, and one Game-of-Life generation of a grid. -/

namespace Sys2Proof.Safety

open Sys2Proof.Machine

/-! The invariant. -/

/-- The PE's registers in a reachable state: the phase counter inside its phase, nothing left to receive in IDLE, something in RX and
EMIT, and dc low outside a request frame (R134, R141). -/
abbrev PeOk (c : Cfg) (p : PeRegs) : Prop :=
  (p.ph = .setup → p.pcnt < c.tSetup)
    ∧ (p.ph = .active → p.pcnt < c.tActive)
    ∧ (p.state = peIDLE ∨ p.state = peEMIT → p.ph = .setup ∧ p.pcnt = 0)
    ∧ (p.state = peIDLE → p.rem = 0#4)
    ∧ (p.state = peRX ∨ p.state = peEMIT → p.rem ≠ 0#4)
    ∧ (p.state ≠ peTX → p.dc = false)

/-- The IS's registers in a reachable state: a listed code, the counters inside their ranges, and an entry under CMD and PARAM
(R46 to R49, R104). -/
abbrev IsOk (c : Cfg) (r : IsRegs) : Prop :=
  r.state.toNat ≤ 5
    ∧ (r.state = isRESET → r.cnt < c.tReset ∧ r.e = 0)
    ∧ (r.state = isWAIT → r.cnt < c.tRelease)
    ∧ (r.state ≠ isRESET → r.state ≠ isWAIT → r.cnt = 0)
    ∧ r.e ≤ c.initTable.length
    ∧ (r.state = isCMD ∨ r.state = isPARAM → r.e < c.initTable.length ∧ (romEntry c r.e).cmd ≠ c.cmdNop)
    ∧ (r.state = isPARAM → r.p < (romEntry c r.e).params.length)
    ∧ (r.state ≠ isPARAM → r.p = 0)
    ∧ (r.state = isDONE → r.e = c.initTable.length)

/-- sp_phase and sp_sub are a pair that R112 lists. -/
abbrev SpListed (r : SpRegs) : Prop := (decodeSpState (r.phase ++ r.sub)).isOk = true

/-- The SP's registers in a reachable state: a listed pair of codes, and each counter inside its range in the phase that uses it and 0
in every other (R51 to R55, R233). -/
abbrev SpOk (c : Cfg) (r : SpRegs) : Prop :=
  SpListed r
    ∧ (r.phase = spRENDER → r.col < c.dispCols ∧ r.pag < c.dispPages)
    ∧ (r.phase ≠ spRENDER → r.col = 0 ∧ r.pag = 0)
    ∧ (r.phase = spEVOLVE ∨ r.phase = spTRANSITION → r.cx < c.gridW ∧ r.cy < c.gridH)
    ∧ (r.phase ≠ spEVOLVE → r.phase ≠ spTRANSITION → r.cx = 0 ∧ r.cy = 0)
    ∧ (r.phase = spEVOLVE → r.sub ≠ sub2 → r.v.toNat ≤ 8 ∧ r.n.toNat + (if 4 < r.v.toNat then 1 else 0) ≤ r.v.toNat)
    ∧ (r.phase = spEVOLVE → r.sub = sub2 → r.v = 8#4 ∧ r.n.toNat ≤ 8)
    ∧ (r.phase ≠ spEVOLVE → r.v = 0#4 ∧ r.n = 0#4)

/-- The invariant of every state a well-formed build reaches, whatever the inputs and the external producer do. -/
abbrev Inv (s : State) : Prop :=
  s.cfg.wf = true
    ∧ Memory.wf s.cfg.cellCount s.mem = true
    ∧ PeOk s.cfg s.pe
    ∧ IsOk s.cfg s.is
    ∧ SpOk s.cfg s.sp
    ∧ (s.sp.phase ≠ spBRINGUP → s.done = true)

/-- The core alone: no external producer, and so nothing to receive (R182, R201, R300). -/
abbrev Silent (s : State) : Prop :=
  s.extReqs = [] ∧ s.pe.rem = 0#4 ∧ (s.pe.state = peIDLE ∨ s.pe.state = peTX)

/-- rst is 0 in the next k cycles. -/
abbrev NoRst (k : Nat) (s : State) : Prop := ∀ i ∈ s.inputs.take k, i.rst = false

/-! The reference schedule's numbers (R109, R144, R310). -/

/-- The cycles of one bit slot (R106). -/
def slotCycles (c : Cfg) : Nat := c.tSetup + c.tActive

/-- B: the cycles of one byte frame (R144). -/
def byteCycles (c : Cfg) : Nat := 8 * slotCycles c

/-- L(n): the length of a transaction with n response bytes (R109). -/
def transactionCycles (c : Cfg) (n : Nat) : Nat := byteCycles c + n * (byteCycles c + 1)

/-- The cycle, counted from the one that accepts the request, in which bit slot k of response byte j ends and miso is sampled
(R108, R137, R144). -/
def sampleCycle (c : Cfg) (j k : Nat) : Nat := byteCycles c + j * (byteCycles c + 1) + (k + 1) * slotCycles c

/-! Obligations on whoever chooses a Cfg: they are no rules of the machine, and no step checks them. -/

/-- T_RESET and T_RELEASE cover the controller's minimums, given in nanoseconds, at F_CLK_HZ (R11, R269). -/
def meetsMinimums (c : Cfg) (resetMinNs releaseMinNs : Nat) : Prop :=
  resetMinNs * c.fClkHz ≤ c.tReset * 1000000000 ∧ releaseMinNs * c.fClkHz ≤ c.tRelease * 1000000000

/-- T_RELEASE leaves at least q cycles between the last pulse before a sentinel and the next acceptance (R301). -/
def sentinelLeaves (c : Cfg) (q : Nat) : Prop := q + byteCycles c ≤ c.tRelease + 3

/-- A relay without a buffer keeps up with response bytes (R302). -/
def relayKeepsUp (c : Cfg) : Prop := 10 * c.fClkHz ≤ (byteCycles c + 1) * Config.uartBaud

/-! What a run does. -/

/-- The PE's registers k cycles on, with nothing offered to it and the given levels of miso (R131 to R134). -/
def peTrace (c : Cfg) (ms : Nat → Bool) (p : PeRegs) : Nat → PeRegs
  | 0 => p
  | k + 1 => peRule c none (ms k) (peTrace c ms p k)

/-- k steps of the core. -/
def runFor (k : Nat) (s : State) : Host.Outcome State Fault Refusal := Sys2Proof.core.run k s

/-- The request accepted in this cycle, if there is one (R15).
DESIGN CHOICE (log entry 5): in a cycle with rst = 1 there is none, because R290 lets the PE take nothing in. -/
def accepted (s : State) : List Req :=
  if s.reqReady && !s.rst then s.port.toList else []

/-- The requests accepted in the next k cycles, in order. -/
def acceptedOver : Nat → State → List Req
  | 0, _ => []
  | k + 1, s =>
    accepted s ++
      match step s with
      | .next t => acceptedOver k t
      | .fault _ => []
      | .refused _ => []

/-- The bytes on the response stream in the next k cycles, in order: one for each cycle with rsp_valid = 1 (R15, R33). -/
def emittedOver : Nat → State → List Byte
  | 0, _ => []
  | k + 1, s =>
    (if s.rspValid then [s.rspData] else []) ++
      match step s with
      | .next t => emittedOver k t
      | .fault _ => []
      | .refused _ => []

/-- The pulses in the next k cycles, in order, each as the mosi and dc of its first cycle: a pulse starts with pe_pcnt = 0 in the
active phase of a bit slot (R106). -/
def pulsesOver : Nat → State → List (Bool × Bool)
  | 0, _ => []
  | k + 1, s =>
    (if s.sclk && s.pe.pcnt == 0 then [(s.mosi, s.dc)] else []) ++
      match step s with
      | .next t => pulsesOver k t
      | .fault _ => []
      | .refused _ => []

/-- The requests of an Init Table (R179). -/
def initStream (c : Cfg) : List Req :=
  c.initTable.flatMap fun e => if e.cmd = c.cmdNop then [] else entryRequests e.cmd e.params

/-- The two requests of a pixel (R110, R116). -/
def pixelRequests (alive : Bool) : List Req :=
  [{ data := pixelByte alive, mode := false, rlen := 0#4 }, { data := pixelByte alive, mode := false, rlen := 0#4 }]

/-- The requests of one frame of a grid (R111, R209). -/
def frameStream (c : Cfg) (cells : List Bool) : List Req :=
  { data := c.cmdRamwr, mode := true, rlen := 0#4 } ::
    (List.range c.dispPages).flatMap fun pag =>
      (List.range c.dispCols).flatMap fun col =>
        pixelRequests (cells.getD (cellAddr c (col / c.scale) (pag / c.scale)) false)

/-! One generation (R239). -/

/-- n of a target: the live cells of the eight visits but the centre's, each visit counted (R235, R239). -/
def neighbourCount (c : Cfg) (cells : List Bool) (x y : Nat) : Nat :=
  ([0, 1, 2, 3, 5, 6, 7, 8].map fun v => (cells.getD (visitAddr c x y v) false).toNat).sum

/-- Life(G) of R244: every cell's next value from the same grid (R239). -/
def lifeGrid (c : Cfg) (cells : List Bool) : List Bool :=
  (List.range c.cellCount).map fun a =>
    life (cells.getD a false) (neighbourCount c cells (a % c.gridW) (a / c.gridW))

end Sys2Proof.Safety
end

