-- ==== Sys2Proof/Certificates/Slice0/Obligations.lean ====
section
/-! DEFINITION. The statements for the provers, by the spec's numbered rules. -/

open Sys2Proof Sys2Proof.Machine Sys2Proof.Safety

/-! Reset, configuration, refusals. -/

/-- R61: the reset state of every build, register by register, and the outputs of cycle 0; State.reset is the reset state of one build.
The internal registers' values are the spec's choice (D34). What stands in inputs, extReqs and tick is the model's own (log entries 3 to
5) and may be anything. -/
def Obligations.ResetStateIsTheSummary : Prop :=
  (∀ (c : Cfg) (inputs : List Input) (ext : List Req) (tick : Nat),
    let s := State.init c inputs ext tick
    s.pe = { state := peIDLE, bit := 0#3, ph := .setup, pcnt := 0, tx := 0x00#8, rx := 0x00#8, rem := 0#4, dc := false }
      ∧ s.is = { state := isRESET, cnt := 0, e := 0, p := 0 }
      ∧ s.sp = { phase := spBRINGUP, sub := sub0, col := 0, pag := 0, cx := 0, cy := 0, v := 0#4, n := 0#4, alive := false }
      ∧ s.mem.cur.cells = c.seed
      ∧ s.mem.nxt.cells.length = c.cellCount
      ∧ s.sclk = false ∧ s.dc = false ∧ s.lcdRstN = false ∧ s.backlight = true ∧ s.reqReady = true ∧ s.rspValid = false
      ∧ s.done = false)
    ∧ State.reset = State.init Config.build [] [] 0

/-- The invariant holds after reset, for every build that meets R10 and for the build of State.reset. -/
def Obligations.InvariantHoldsAfterReset : Prop :=
  (∀ (c : Cfg) (inputs : List Input) (ext : List Req) (tick : Nat), c.wf = true → Inv (State.init c inputs ext tick))
    ∧ Inv State.reset

/-- R290 (the spec's choice D24): a cycle with rst = 1 leaves the reset state, with the coming inputs and an external producer going on,
whatever the codes held; no other cycle re-enters the IS's RESET or the SP's BRINGUP; and an operation of many cycles that meets it in its
first cycle is abandoned (that such a row stops there is the model's choice, log entries 6 and 7). That an external producer still offers
the request it had on the port in the cycle with rst = 1, an idle PE's too, is the model's choice (log entry 5), and so is what inputs and
tick hold afterwards (log entries 4 and 3); that rst is looked at before the codes is log entry 13 (DEDUCED). -/
def Obligations.RstResetsAndNothingElseDoes : Prop :=
  (∀ s : State, s.cfg.wf = true → s.rst = true →
    step s = .next (State.init s.cfg s.inputs.tail s.extReqs (s.tick + 1)))
    ∧ (∀ s t : State, step s = .next t → s.rst = false →
      (s.is.state ≠ isRESET → t.is.state ≠ isRESET) ∧ (s.sp.phase ≠ spBRINGUP → t.sp.phase ≠ spBRINGUP))
    ∧ ∀ s : State, s.rst = true →
      (∀ d n, exec (.txnCmd d n) s = .next s.afterRst ∧ exec (.txnParam d n) s = .next s.afterRst)
        ∧ (∀ c ps, exec (.initCmd c ps) s = .next s.afterRst) ∧ exec .initNop s = .next s.afterRst

/-- R10 (its first and fourth conditions are the spec's reading, D13, D15): exactly the listed conditions make a Cfg well formed, and any
other Cfg has no machine. -/
def Obligations.IllFormedCfgHasNoMachine : Prop :=
  (∀ c : Cfg, c.wf = true ↔
    (1 ≤ c.gridW ∧ 1 ≤ c.gridH ∧ 1 ≤ c.scale ∧ c.dispCols = c.gridW * c.scale ∧ c.dispPages = c.gridH * c.scale)
      ∧ (1 ≤ c.tReset ∧ 1 ≤ c.tRelease ∧ 1 ≤ c.tSetup ∧ 1 ≤ c.tActive)
      ∧ c.seed.length = c.gridW * c.gridH
      ∧ (∀ e ∈ c.initTable, e.cmd = c.cmdNop → e.params = [])
      ∧ ((∀ e ∈ c.initTable, e.cmd.toNat ≤ 255 ∧ ∀ p ∈ e.params, p.toNat ≤ 255)
        ∧ c.cmdNop.toNat ≤ 255 ∧ c.cmdRamwr.toNat ≤ 255))
    ∧ ∀ s : State, s.cfg.wf = false → step s = .refused .illFormedCfg

/-- R113 (the spec's choice D25): what each format reserves. No REQ word and no PESTATE code is illegal; a sentinel with parameters is no
entry and makes the Cfg ill formed; is_state 110 and 111 and the 22 SPSTATE codes that R112 does not list are refused. -/
def Obligations.ReservedEncodingsAreRefused : Prop :=
  (∀ (nop : Byte) (w : BitVec 13), ∃ d n, decode nop (.req w) = .ok (.txnCmd d n) ∨ decode nop (.req w) = .ok (.txnParam d n))
    ∧ (∀ (nop : Byte) (p : Byte) (ps : List Byte), decode nop (.init (nop :: p :: ps)) = .error .sentinelWithParams)
    ∧ (∀ (c : Cfg) (e : Entry), e ∈ c.initTable → e.cmd = c.cmdNop → e.params ≠ [] → c.wf = false)
    ∧ (∀ (nop : Byte) (c : BitVec 2), ∃ i, decode nop (.peState c) = .ok i)
    ∧ (∀ s : State, s.cfg.wf = true → s.rst = false → s.is.state = 0b110#3 ∨ s.is.state = 0b111#3 →
      step s = .refused .unreachableState)
    ∧ (∀ s : State, s.cfg.wf = true → s.rst = false →
      (s.sp.phase, s.sp.sub) ∉ [(spBRINGUP, sub0), (spBEGIN, sub0), (spRENDER, sub0), (spRENDER, sub1), (spRENDER, sub2),
        (spEVOLVE, sub0), (spEVOLVE, sub1), (spEVOLVE, sub2), (spTRANSITION, sub0), (spTRANSITION, sub1)] →
      step s = .refused .unreachableState)

/-! Encodings. -/

/-- Decoding the item of a well-formed instruction gives it back, with every operand, in a build with any sentinel code. -/
def Obligations.DecodeOfEncodeIsTheInstruction : Prop :=
  ∀ (nop : Byte) (i : Instr), i.wf nop = true → decode nop (encode nop i) = .ok i

/-- Every item that decodes is the item of the instruction it decodes to, so each item has one meaning. -/
def Obligations.EncodeOfDecodeIsTheItem : Prop :=
  ∀ (nop : Byte) (c : Code) (i : Instr), decode nop c = .ok i → encode nop i = c ∧ i.wf nop = true

/-- The words of the spec's REQ table, its INIT examples (V11) and codes of each machine (R112), written out, decode to their operations.
-/
def Obligations.SpecWordsDecode : Prop :=
  decode 0x00#8 (.req 0x01A5#13) = .ok (.txnCmd 0xA5#8 0#4)
    ∧ decode 0x00#8 (.req 0x00FF#13) = .ok (.txnParam 0xFF#8 0#4)
    ∧ decode 0x00#8 (.req 0x0704#13) = .ok (.txnCmd 0x04#8 3#4)
    ∧ decode 0x00#8 (.req 0x1E00#13) = .ok (.txnParam 0x00#8 15#4)
    ∧ decode 0x00#8 (.init [0x00#8]) = .ok .initNop
    ∧ decode 0x00#8 (.init [0xB2#8, 0x01#8]) = .ok (.initCmd 0xB2#8 [0x01#8])
    ∧ decode 0x00#8 (.init [0x00#8, 0x01#8]) = .error .sentinelWithParams
    ∧ decode 0x00#8 (.peState 0b10#2) = .ok .peRx
    ∧ decode 0x00#8 (.isState 0b011#3) = .ok .isCmd
    ∧ decode 0x00#8 (.spState 0b01110#5) = .ok .spEvolveWrite

/-- R103: bit 8 of a REQ word alone selects the operation, and every word is legal; R102: data is bits 7..0 and rlen bits 12..9. -/
def Obligations.ReqBit8SelectsTheOperation : Prop :=
  ∀ (nop : Byte) (w : BitVec 13),
    (w.getLsbD 8 = true → decode nop (.req w) = .ok (.txnCmd (w.extractLsb' 0 8) (w.extractLsb' 9 4)))
      ∧ (w.getLsbD 8 = false → decode nop (.req w) = .ok (.txnParam (w.extractLsb' 0 8) (w.extractLsb' 9 4)))

/-! Ports and outputs. -/

/-- R130, R135, R136 (D1, D7, D8): the PE's outputs; outside TX mosi, and outside EMIT rsp_data, is a draw, and mosi is constant through a
bit slot. -/
def Obligations.PeOutputsAreMoore : Prop :=
  (∀ s : State,
    (s.reqReady = true ↔ s.pe.state = peIDLE)
      ∧ (s.sclk = true ↔ (s.pe.state = peTX ∨ s.pe.state = peRX) ∧ s.pe.ph = .active)
      ∧ s.dc = s.pe.dc
      ∧ (s.rspValid = true ↔ s.pe.state = peEMIT)
      ∧ (s.pe.state = peTX → s.mosi = s.pe.tx.getLsbD s.pe.bit.toNat)
      ∧ (s.pe.state ≠ peTX → s.mosi = Config.drawMosi s.tick)
      ∧ (s.pe.state = peEMIT → s.rspData = s.pe.rx)
      ∧ (s.pe.state ≠ peEMIT → s.rspData = Config.drawRspData s.tick))
    ∧ ∀ s t : State, step s = .next t → s.rst = false → s.pe.state = peTX → ¬(s.pe.ph = .active ∧ s.pe.pcnt + 1 = s.cfg.tActive) →
      1 ≤ s.cfg.tActive → t.pe.state = peTX ∧ t.mosi = s.mosi

/-- R170 (D10, D12): the IS's outputs, with entry e and its parameter p as the table has them. -/
def Obligations.IsOutputsAreMoore : Prop :=
  ∀ s : State,
    (s.isRstN = true ↔ s.is.state ≠ isRESET)
      ∧ (s.isReqValid = true ↔ s.is.state = isCMD ∨ s.is.state = isPARAM)
      ∧ (∀ en, s.is.state = isCMD → s.cfg.initTable[s.is.e]? = some en → s.isReq.data = en.cmd)
      ∧ (∀ en b, s.is.state = isPARAM → s.cfg.initTable[s.is.e]? = some en → en.params[s.is.p]? = some b → s.isReq.data = b)
      ∧ (s.is.state ≠ isCMD → s.is.state ≠ isPARAM → s.isReq.data = Config.drawIsReqData s.tick)
      ∧ (s.isReq.mode = true ↔ s.is.state = isCMD)
      ∧ s.isReq.rlen = 0#4
      ∧ (s.done = true ↔ s.is.state = isDONE)

/-- R201 (D14, D21): the SP's outputs. -/
def Obligations.SpOutputsAreMoore : Prop :=
  ∀ s : State,
    (s.spReqValid = true ↔ s.sp.phase = spBEGIN ∨ (s.sp.phase = spRENDER ∧ (s.sp.sub = sub1 ∨ s.sp.sub = sub2)))
      ∧ (s.sp.phase = spBEGIN → s.spReq.data = s.cfg.cmdRamwr)
      ∧ (s.sp.phase = spRENDER → s.sp.sub = sub1 ∨ s.sp.sub = sub2 →
        s.spReq.data = if s.mem.cur.rdata then 0xFF#8 else 0x00#8)
      ∧ (s.spReqValid = false → s.spReq.data = Config.drawSpReqData s.tick)
      ∧ (s.spReq.mode = true ↔ s.sp.phase = spBEGIN)
      ∧ s.spReq.rlen = 0#4

/-- R36, R37 (D29, D11): with no external producer (log entry 5; the core has none), done alone picks who drives the request port, who
sees a transfer, and who drives lcd_rst_n. -/
def Obligations.DoneSelectsTheProducer : Prop :=
  ∀ s : State, s.extReqs = [] →
    (s.done = false →
      s.reqValid = s.isReqValid ∧ s.reqLines = s.isReq ∧ s.isFire = (s.isReqValid && s.reqReady) ∧ s.spFire = false
        ∧ s.lcdRstN = s.isRstN)
      ∧ (s.done = true →
        s.reqValid = s.spReqValid ∧ s.reqLines = s.spReq ∧ s.spFire = (s.spReqValid && s.reqReady) ∧ s.isFire = false
          ∧ s.lcdRstN = true)

/-! The Protocol Engine's rows. -/

/-- R131 (the spec's schedule D1): PE_IDLE accepts what the port offers, or changes nothing. -/
def Obligations.PeIdleAcceptsOrHolds : Prop :=
  ∀ s : State,
    (s.reqValid = true →
      exec .peIdle s = .next (s.setPe { s.pe with
        tx := s.reqLines.data, dc := s.reqLines.mode, rem := s.reqLines.rlen, bit := 7#3, ph := .setup, pcnt := 0, state := peTX }))
      ∧ (s.reqValid = false → exec .peIdle s = .next s)

/-- R132 (D1, D4, D6): PE_TX, case by case, for a phase counter inside its phase; in every state it answers a next state that differs in
the PE's registers only. -/
def Obligations.PeTxSendsABitSlot : Prop :=
  ∀ s : State,
    (∃ p, exec .peTx s = .next (s.setPe p))
      ∧ (s.pe.ph = .setup → s.pe.pcnt + 1 = s.cfg.tSetup → exec .peTx s = .next (s.setPe { s.pe with ph := .active, pcnt := 0 }))
      ∧ (s.pe.ph = .setup → s.pe.pcnt + 1 < s.cfg.tSetup → exec .peTx s = .next (s.setPe { s.pe with pcnt := s.pe.pcnt + 1 }))
      ∧ (s.pe.ph = .active → s.pe.pcnt + 1 < s.cfg.tActive → exec .peTx s = .next (s.setPe { s.pe with pcnt := s.pe.pcnt + 1 }))
      ∧ (s.pe.ph = .active → s.pe.pcnt + 1 = s.cfg.tActive → s.pe.bit ≠ 0#3 →
        exec .peTx s = .next (s.setPe { s.pe with pcnt := 0, ph := .setup, bit := s.pe.bit - 1#3 }))
      ∧ (s.pe.ph = .active → s.pe.pcnt + 1 = s.cfg.tActive → s.pe.bit = 0#3 → s.pe.rem = 0#4 →
        exec .peTx s = .next (s.setPe { s.pe with pcnt := 0, ph := .setup, dc := false, state := peIDLE }))
      ∧ (s.pe.ph = .active → s.pe.pcnt + 1 = s.cfg.tActive → s.pe.bit = 0#3 → s.pe.rem ≠ 0#4 →
        exec .peTx s = .next (s.setPe { s.pe with pcnt := 0, ph := .setup, dc := false, bit := 7#3, state := peRX }))

/-- R133 (D1, D5): PE_RX, case by case, for a phase counter inside its phase; and eight shifts replace all of pe_rx, the first sample in
bit 7. -/
def Obligations.PeRxReceivesABitSlot : Prop :=
  (∀ s : State,
    (∃ p, exec .peRx s = .next (s.setPe p))
      ∧ (s.pe.ph = .setup → s.pe.pcnt + 1 = s.cfg.tSetup → exec .peRx s = .next (s.setPe { s.pe with ph := .active, pcnt := 0 }))
      ∧ (s.pe.ph = .setup → s.pe.pcnt + 1 < s.cfg.tSetup → exec .peRx s = .next (s.setPe { s.pe with pcnt := s.pe.pcnt + 1 }))
      ∧ (s.pe.ph = .active → s.pe.pcnt + 1 < s.cfg.tActive → exec .peRx s = .next (s.setPe { s.pe with pcnt := s.pe.pcnt + 1 }))
      ∧ (s.pe.ph = .active → s.pe.pcnt + 1 = s.cfg.tActive → s.pe.bit ≠ 0#3 →
        exec .peRx s = .next (s.setPe { s.pe with
          rx := s.pe.rx.extractLsb' 0 7 ++ BitVec.ofBool s.miso, pcnt := 0, ph := .setup, bit := s.pe.bit - 1#3 }))
      ∧ (s.pe.ph = .active → s.pe.pcnt + 1 = s.cfg.tActive → s.pe.bit = 0#3 →
        exec .peRx s = .next (s.setPe { s.pe with
          rx := s.pe.rx.extractLsb' 0 7 ++ BitVec.ofBool s.miso, pcnt := 0, ph := .setup, state := peEMIT })))
    ∧ ∀ (rx : Byte) (sample : Nat → Bool) (k : Nat), k < 8 →
      (((List.range 8).map sample).foldl shiftIn rx).getLsbD (7 - k) = sample k

/-- R134 (D8): PE_EMIT lasts one cycle and shows pe_rx on the response stream; with at least one byte left, as every reachable state has
(InvariantKeptByEveryStep), the decrement does not wrap. -/
def Obligations.PeEmitLastsOneCycle : Prop :=
  ∀ s : State,
    (s.pe.rem = 1#4 → exec .peEmit s = .next (s.setPe { s.pe with rem := 0#4, state := peIDLE }))
      ∧ (s.pe.rem ≠ 1#4 →
        exec .peEmit s = .next (s.setPe { s.pe with
          rem := s.pe.rem - 1#4, bit := 7#3, ph := .setup, pcnt := 0, state := peRX }))
      ∧ (s.pe.state = peEMIT → s.rspValid = true ∧ s.rspData = s.pe.rx)
      ∧ (s.pe.state = peEMIT → PeOk s.cfg s.pe → 1 ≤ s.pe.rem.toNat ∧ (s.pe.rem - 1#4).toNat = s.pe.rem.toNat - 1)

/-! The Init Sequencer's rows. -/

/-- R171, R172 (D9, D10): IS_RESET and IS_WAIT count their cycles and go on, with the reset line low and high, and offer nothing. -/
def Obligations.IsResetAndIsWaitCount : Prop :=
  ∀ s : State,
    ((∃ r, exec .isReset s = .next (s.setIs r)) ∧ (∃ r, exec .isWait s = .next (s.setIs r)))
      ∧ (s.is.cnt + 1 = s.cfg.tReset → exec .isReset s = .next (s.setIs { s.is with cnt := 0, state := isWAIT }))
      ∧ (s.is.cnt + 1 < s.cfg.tReset → exec .isReset s = .next (s.setIs { s.is with cnt := s.is.cnt + 1 }))
      ∧ (s.is.cnt + 1 = s.cfg.tRelease → exec .isWait s = .next (s.setIs { s.is with cnt := 0, state := isNEXT }))
      ∧ (s.is.cnt + 1 < s.cfg.tRelease → exec .isWait s = .next (s.setIs { s.is with cnt := s.is.cnt + 1 }))
      ∧ (s.is.state = isRESET → s.isRstN = false ∧ s.isReqValid = false)
      ∧ (s.is.state = isWAIT → s.isRstN = true ∧ s.isReqValid = false)

/-- R173 (D10, D13): IS_NEXT ends the table, starts a sentinel's wait, or goes to the command. -/
def Obligations.IsNextDispatchesTheEntry : Prop :=
  ∀ s : State,
    (∃ r, exec .isNext s = .next (s.setIs r))
      ∧ (s.is.e = s.cfg.initTable.length → exec .isNext s = .next (s.setIs { s.is with state := isDONE }))
      ∧ (∀ en, s.cfg.initTable[s.is.e]? = some en → en.cmd = s.cfg.cmdNop →
        exec .isNext s = .next (s.setIs { s.is with e := s.is.e + 1, cnt := 0, state := isWAIT }))
      ∧ (∀ en, s.cfg.initTable[s.is.e]? = some en → en.cmd ≠ s.cfg.cmdNop →
        exec .isNext s = .next (s.setIs { s.is with state := isCMD }))

/-- R174, R175: IS_CMD and IS_PARAM offer their byte and hold it until it fires, then go to the next byte of the entry or to the next
entry. -/
def Obligations.IsCmdAndIsParamHoldUntilFire : Prop :=
  ∀ s : State,
    ((∃ r, exec .isCmd s = .next (s.setIs r)) ∧ (∃ r, exec .isParam s = .next (s.setIs r)))
      ∧ (s.isFire = false → exec .isCmd s = .next s ∧ exec .isParam s = .next s)
      ∧ (∀ en, s.cfg.initTable[s.is.e]? = some en → s.isFire = true →
        (en.params = [] → exec .isCmd s = .next (s.setIs { s.is with e := s.is.e + 1, state := isNEXT }))
          ∧ (en.params ≠ [] → exec .isCmd s = .next (s.setIs { s.is with p := 0, state := isPARAM }))
          ∧ (s.is.p + 1 = en.params.length →
            exec .isParam s = .next (s.setIs { s.is with p := 0, e := s.is.e + 1, state := isNEXT }))
          ∧ (s.is.p + 1 < en.params.length → exec .isParam s = .next (s.setIs { s.is with p := s.is.p + 1 })))
      ∧ ∀ en, s.cfg.initTable[s.is.e]? = some en →
        (s.is.state = isCMD → s.isReqValid = true ∧ s.isReq = { data := en.cmd, mode := true, rlen := 0#4 })
          ∧ ∀ b, s.is.state = isPARAM → en.params[s.is.p]? = some b →
            s.isReqValid = true ∧ s.isReq = { data := b, mode := false, rlen := 0#4 }

/-- R176, R50: done is 1 exactly in IS_DONE and 0 from reset; IS_DONE changes nothing, and without rst the state has no exit. -/
def Obligations.IsDoneStaysUntilRst : Prop :=
  (∀ s : State, exec .isDone s = .next s)
    ∧ (∀ s : State, s.done = true ↔ s.is.state = isDONE)
    ∧ (∀ (c : Cfg) (inputs : List Input) (ext : List Req) (tick : Nat), (State.init c inputs ext tick).done = false)
    ∧ (∀ s : State, s.is.state = isDONE → s.done = true ∧ s.isReqValid = false ∧ s.isRstN = true)
    ∧ (∀ s t : State, step s = .next t → s.rst = false → s.done = true → t.done = true ∧ t.is = s.is)

/-! The Simulation Pipeline's rows. -/

/-- R202 and R203's operation: SP_BRINGUP relays the request port and the reset line to the IS, offers nothing and waits for done (the
relay clause has the premise extReqs = [], the model's choice of log entry 5, which is the core alone); SP_BEGIN_WRITE offers the
begin-write command and waits for its acceptance. -/
def Obligations.BringupAndBeginWrite : Prop :=
  ∀ s : State,
    (s.done = true → exec .spBringup s = .next (s.setSp { s.sp with phase := spBEGIN, sub := sub0 }))
      ∧ (s.done = false → exec .spBringup s = .next s)
      ∧ (s.sp.phase = spBRINGUP → s.spReqValid = false)
      ∧ (s.done = false → s.extReqs = [] → s.reqValid = s.isReqValid ∧ s.reqLines = s.isReq ∧ s.lcdRstN = s.isRstN)
      ∧ (s.sp.phase = spBEGIN → s.spReqValid = true ∧ s.spReq = { data := s.cfg.cmdRamwr, mode := true, rlen := 0#4 })
      ∧ (s.spFire = true →
        exec .spBeginWrite s = .next (s.setSp { s.sp with col := 0, pag := 0, phase := spRENDER, sub := sub0 }))
      ∧ (s.spFire = false → exec .spBeginWrite s = .next s)

/-- R204: SP_RENDER_ADDR reads the cell (col / S, pag / S) of the current bank; nothing else changes but rdata and sp_sub, and no request
is offered. -/
def Obligations.RenderAddrReadsThePixelsCell : Prop :=
  ∀ s : State, s.cfg.wf = true → Memory.wf s.cfg.cellCount s.mem = true → s.sp.col < s.cfg.dispCols → s.sp.pag < s.cfg.dispPages →
    ∃ v, s.mem.cur.cell (s.sp.pag / s.cfg.scale * s.cfg.gridW + s.sp.col / s.cfg.scale) = some v
      ∧ exec .spRenderAddr s
        = .next ((s.setSp { s.sp with sub := sub1 }).setMem { s.mem with cur := { s.mem.cur with rdata := v } })
      ∧ (s.sp.phase = spRENDER → s.sp.sub = sub0 → s.spReqValid = false)

/-- R205, R206: SP_RENDER_BYTE0 and SP_RENDER_BYTE1 offer the pixel byte; each goes on when it fires. -/
def Obligations.RenderBytesOfferThePixel : Prop :=
  ∀ s : State,
    (s.sp.phase = spRENDER → s.sp.sub = sub1 ∨ s.sp.sub = sub2 →
      s.spReqValid = true ∧ s.spReq = { data := if s.mem.cur.rdata then 0xFF#8 else 0x00#8, mode := false, rlen := 0#4 })
      ∧ (s.spFire = true → exec .spRenderByte0 s = .next (s.setSp { s.sp with sub := sub2 }))
      ∧ (s.spFire = false → exec .spRenderByte0 s = .next s)
      ∧ (s.spFire = true → s.sp.col + 1 < s.cfg.dispCols →
        exec .spRenderByte1 s = .next (s.setSp { s.sp with col := s.sp.col + 1, sub := sub0 }))
      ∧ (s.spFire = true → s.sp.col + 1 = s.cfg.dispCols → s.sp.pag + 1 < s.cfg.dispPages →
        exec .spRenderByte1 s = .next (s.setSp { s.sp with col := 0, pag := s.sp.pag + 1, sub := sub0 }))
      ∧ (s.spFire = true → s.sp.col + 1 = s.cfg.dispCols → s.sp.pag + 1 = s.cfg.dispPages →
        exec .spRenderByte1 s = .next (s.setSp { s.sp with
          col := 0, pag := 0, cx := 0, cy := 0, v := 0#4, n := 0#4, phase := spEVOLVE, sub := sub0 }))
      ∧ (s.spFire = false → exec .spRenderByte1 s = .next s)

/-- R236: SP_EVOLVE_ADDR reads the cell of visit sp_v (R231) of the current bank, and no request is offered in EVOLVE. -/
def Obligations.EvolveAddrReadsTheVisit : Prop :=
  ∀ s : State, s.cfg.wf = true → Memory.wf s.cfg.cellCount s.mem = true → s.sp.cx < s.cfg.gridW → s.sp.cy < s.cfg.gridH →
    s.sp.v.toNat ≤ 8 →
    ∃ d, s.mem.cur.cell
        (wrap s.cfg.gridH (s.sp.cy + s.sp.v.toNat / 3) * s.cfg.gridW + wrap s.cfg.gridW (s.sp.cx + s.sp.v.toNat % 3)) = some d
      ∧ exec .spEvolveAddr s
        = .next ((s.setSp { s.sp with sub := sub1 }).setMem { s.mem with cur := { s.mem.cur with rdata := d } })
      ∧ (s.sp.phase = spEVOLVE → s.spReqValid = false)

/-- R237: SP_EVOLVE_ACC takes the visit's bit into sp_alive at visit 4 and into sp_n at every other; in every state of the invariant sp_n
is below 8 there, so the sum does not overflow. -/
def Obligations.EvolveAccTakesTheVisit : Prop :=
  ∀ s : State,
    (s.sp.v = 4#4 → exec .spEvolveAcc s = .next (s.setSp { s.sp with alive := s.mem.cur.rdata, v := 5#4, sub := sub0 }))
      ∧ (s.sp.v ≠ 4#4 → s.sp.v ≠ 8#4 → ∃ n', exec .spEvolveAcc s = .next (s.setSp { s.sp with n := n', v := s.sp.v + 1#4, sub := sub0 })
        ∧ (s.sp.n.toNat < 8 → n'.toNat = s.sp.n.toNat + s.mem.cur.rdata.toNat))
      ∧ (s.sp.v = 8#4 → ∃ n', exec .spEvolveAcc s = .next (s.setSp { s.sp with n := n', sub := sub2 })
        ∧ (s.sp.n.toNat < 8 → n'.toNat = s.sp.n.toNat + s.mem.cur.rdata.toNat))
      ∧ (SpOk s.cfg s.sp → s.sp.phase = spEVOLVE → s.sp.sub = sub1 → s.sp.n.toNat < 8)

/-- R238's operation: SP_EVOLVE_WRITE stores life(sp_alive, sp_n) at the target's address of the next bank, clears sp_n and sp_v, and goes
on in row-major order; every other cell of both banks reads as before. -/
def Obligations.EvolveWriteStoresLife : Prop :=
  ∀ s : State, Memory.wf s.cfg.cellCount s.mem = true → s.sp.cx < s.cfg.gridW → s.sp.cy < s.cfg.gridH →
    ∃ t, exec .spEvolveWrite s = .next t
      ∧ t = (s.setSp t.sp).setMem { s.mem with nxt := { s.mem.nxt with cells := t.mem.nxt.cells } }
      ∧ t.mem.nxt.cell (cellAddr s.cfg s.sp.cx s.sp.cy)
        = some ((s.sp.alive && (s.sp.n.toNat == 2 || s.sp.n.toNat == 3)) || (!s.sp.alive && s.sp.n.toNat == 3))
      ∧ (∀ a, a ≠ cellAddr s.cfg s.sp.cx s.sp.cy → t.mem.nxt.cell a = s.mem.nxt.cell a)
      ∧ (s.sp.cx + 1 < s.cfg.gridW → t.sp = { s.sp with n := 0#4, v := 0#4, cx := s.sp.cx + 1, sub := sub0 })
      ∧ (s.sp.cx + 1 = s.cfg.gridW → s.sp.cy + 1 < s.cfg.gridH →
        t.sp = { s.sp with n := 0#4, v := 0#4, cx := 0, cy := s.sp.cy + 1, sub := sub0 })
      ∧ (s.sp.cx + 1 = s.cfg.gridW → s.sp.cy + 1 = s.cfg.gridH →
        t.sp = { s.sp with n := 0#4, v := 0#4, cx := 0, cy := 0, phase := spTRANSITION, sub := sub0 })

/-- R241, R242: SP_TRANSITION_LOAD reads the target's cell of the next bank; SP_TRANSITION_WRITE stores nxt.rdata at the target's address
of the current bank and goes on in row-major order, at the end to BEGIN; every other cell of both banks reads as before. -/
def Obligations.TransitionLoadsAndWritesACell : Prop :=
  ∀ s : State, Memory.wf s.cfg.cellCount s.mem = true → s.sp.cx < s.cfg.gridW → s.sp.cy < s.cfg.gridH →
    (∃ v, s.mem.nxt.cell (s.sp.cy * s.cfg.gridW + s.sp.cx) = some v
      ∧ exec .spTransitionLoad s
        = .next ((s.setSp { s.sp with sub := sub1 }).setMem { s.mem with nxt := { s.mem.nxt with rdata := v } }))
      ∧ ∃ t, exec .spTransitionWrite s = .next t
        ∧ t = (s.setSp t.sp).setMem { s.mem with cur := { s.mem.cur with cells := t.mem.cur.cells } }
        ∧ t.mem.cur.cell (cellAddr s.cfg s.sp.cx s.sp.cy) = some s.mem.nxt.rdata
        ∧ (∀ a, a ≠ cellAddr s.cfg s.sp.cx s.sp.cy → t.mem.cur.cell a = s.mem.cur.cell a)
        ∧ (s.sp.cx + 1 < s.cfg.gridW → t.sp = { s.sp with cx := s.sp.cx + 1, sub := sub0 })
        ∧ (s.sp.cx + 1 = s.cfg.gridW → s.sp.cy + 1 < s.cfg.gridH → t.sp = { s.sp with cx := 0, cy := s.sp.cy + 1, sub := sub0 })
        ∧ (s.sp.cx + 1 = s.cfg.gridW → s.sp.cy + 1 = s.cfg.gridH →
          t.sp = { s.sp with cx := 0, cy := 0, phase := spBEGIN, sub := sub0 })

/-- R75, R76 (D18, D25): a bank's ports refuse a read and a write in one cycle and an address the bank does not have, and a row that
computes such an address stops with that refusal. -/
def Obligations.BankPortsRefuse : Prop :=
  (∀ (b : Bank) (a w : Nat) (v : Bool), b.clock { read := some a, write := some (w, v) } = .error .readDuringWrite)
    ∧ (∀ s : State, Memory.wf s.cfg.cellCount s.mem = true →
      (s.cfg.cellCount ≤ pixelAddr s.cfg s.sp.col s.sp.pag → exec .spRenderAddr s = .refused .addressOutOfRange)
        ∧ (s.cfg.cellCount ≤ visitAddr s.cfg s.sp.cx s.sp.cy s.sp.v.toNat → exec .spEvolveAddr s = .refused .addressOutOfRange)
        ∧ (s.cfg.cellCount ≤ cellAddr s.cfg s.sp.cx s.sp.cy →
          exec .spEvolveWrite s = .refused .addressOutOfRange ∧ exec .spTransitionLoad s = .refused .addressOutOfRange
            ∧ exec .spTransitionWrite s = .refused .addressOutOfRange))

/-! The operations of many cycles. -/

/-- R138, R139 at the transaction level, for an idle PE: TXN_CMD and TXN_PARAM complete in L(n) + 1 cycles with the PE in IDLE again, the
byte in pe_tx, dc low, and in pe_rx the last response byte, first sample in bit 7; nothing else of the machine changes. That the other two
machines stand still meanwhile is the model's choice (log entry 6). -/
def Obligations.TransactionCompletes : Prop :=
  ∀ (s : State) (d : Byte) (n : BitVec 4), s.cfg.wf = true → s.pe.state = peIDLE →
    NoRst (transactionCycles s.cfg n.toNat + 1) s →
    ∃ rx : Byte,
      (n = 0#4 → rx = s.pe.rx)
        ∧ (n ≠ 0#4 → ∀ k < 8, rx.getLsbD (7 - k) = s.misoAt (sampleCycle s.cfg (n.toNat - 1) k))
        ∧ ∀ i, i = Instr.txnCmd d n ∨ i = Instr.txnParam d n →
          exec i s = .next { s with
            pe := { state := peIDLE, bit := 0#3, ph := .setup, pcnt := 0, tx := d, rx := rx, rem := 0#4, dc := false }
            inputs := s.inputs.drop (transactionCycles s.cfg n.toNat + 1)
            tick := s.tick + (transactionCycles s.cfg n.toNat + 1) }

/-- R143, R145: from any registers of a reachable PE, idle or not, a transaction waits until the PE is free and then completes. That the
row runs the PE alone, and so leaves everything but the PE's registers, the inputs and the draws as it was, is the model's choice (log
entry 6). -/
def Obligations.TransactionWaitsForIdle : Prop :=
  ∀ (s : State) (d : Byte) (n : BitVec 4), s.cfg.wf = true → PeOk s.cfg s.pe → (∀ i ∈ s.inputs, i.rst = false) →
    ∀ i, i = Instr.txnCmd d n ∨ i = Instr.txnParam d n →
      ∃ (p : PeRegs) (k : Nat), p.state = peIDLE ∧ p.tx = d ∧ p.rem = 0#4 ∧ p.dc = false
        ∧ k ≤ 16 * (byteCycles s.cfg + 1) + transactionCycles s.cfg n.toNat + 1
        ∧ exec i s = .next { s with pe := p, inputs := s.inputs.drop k, tick := s.tick + k }

/-- R177 for an idle PE (StepsRunTheTableEntry has a busy one too): INIT_CMD submits its bytes, a cycle for the command's acceptance and B
+ 1 cycles for each parameter's; then the last byte is on its way and the IS is in NEXT at the following entry. That the row begins with
the dispatch cycle, ends at the next IS_NEXT cycle, and leaves the SP and the banks as they are is the model's choice (log entry 7). -/
def Obligations.InitCmdSubmitsTheEntry : Prop :=
  ∀ (s : State) (c : Byte) (ps : List Byte), s.cfg.wf = true → s.pe.state = peIDLE → s.is.e < s.cfg.initTable.length →
    NoRst (2 + ps.length * (byteCycles s.cfg + 1)) s →
    exec (.initCmd c ps) s = .next { s with
      pe := { s.pe with
        state := peTX, bit := 7#3, ph := .setup, pcnt := 0, tx := ps.getLastD c, rem := 0#4, dc := ps.isEmpty }
      is := { s.is with state := isNEXT, e := s.is.e + 1, p := if ps.isEmpty then s.is.p else 0 }
      inputs := s.inputs.drop (2 + ps.length * (byteCycles s.cfg + 1))
      tick := s.tick + (2 + ps.length * (byteCycles s.cfg + 1)) }

/-- R178: INIT_NOP takes T_RELEASE cycles of waiting, and then the IS is in NEXT at the following entry. In those cycles the PE, idle or
busy, goes on with what it has, with nothing offered to it: it starts no request frame, keeps pe_tx, and is as it was if it was idle. That
the row begins with the dispatch cycle, ends at the next IS_NEXT cycle, and leaves the SP and the banks as they are is the model's choice
(log entry 7). -/
def Obligations.InitNopWaits : Prop :=
  ∀ s : State, s.is.e < s.cfg.initTable.length → NoRst (s.cfg.tRelease + 1) s →
    exec .initNop s = .next { s with
        pe := peTrace s.cfg s.misoAt s.pe (s.cfg.tRelease + 1)
        is := { s.is with state := isNEXT, cnt := 0, e := s.is.e + 1 }
        inputs := s.inputs.drop (s.cfg.tRelease + 1)
        tick := s.tick + (s.cfg.tRelease + 1) }
      ∧ (s.pe.state = peIDLE → peTrace s.cfg s.misoAt s.pe (s.cfg.tRelease + 1) = s.pe)
      ∧ ∀ k,
        ((peTrace s.cfg s.misoAt s.pe (k + 1)).state = peTX → (peTrace s.cfg s.misoAt s.pe k).state = peTX)
          ∧ (peTrace s.cfg s.misoAt s.pe k).tx = s.pe.tx

/-! The step. -/

/-- R264, R14: rst comes first; otherwise the step is the three rows its state codes decode to, each run from the same state, joined: the
PE's registers from the first, the IS's from the second, the SP's and the banks from the third. What the next state has in the model's own
fields is the model's choice (DESIGN CHOICE): extReqs loses its first request when the PE is ready and keeps it in a cycle with rst = 1
(log entry 5), inputs loses its first entry (log entry 4), and tick counts the cycle (log entry 3). That rst is looked at before the codes
is log entry 13 (DEDUCED); that a row's refusal is the step's is log entry 14 (DEDUCED). -/
def Obligations.StepRunsTheDecodedRows : Prop :=
  ∀ s : State, s.cfg.wf = true →
    (s.rst = true → step s = .next s.afterRst)
      ∧ (s.rst = false → ∀ i j k : Instr,
        decode s.cfg.cmdNop (.peState s.pe.state) = .ok i → decode s.cfg.cmdNop (.isState s.is.state) = .ok j →
        decode s.cfg.cmdNop (.spState (s.sp.phase ++ s.sp.sub)) = .ok k →
        (∀ p q r, exec i s = .next p → exec j s = .next q → exec k s = .next r →
          step s = .next { s with
            pe := p.pe, is := q.is, sp := r.sp, mem := r.mem
            extReqs := if s.reqReady then s.extReqs.tail else s.extReqs
            inputs := s.inputs.tail, tick := s.tick + 1 })
          ∧ ∀ e, exec k s = .refused e → step s = .refused e)

/-! Frames: what a row leaves as it was, read through the one-cell read of each bank. -/

/-- R131 to R134, R171 to R176: a PE row changes the PE's registers only, an IS row the IS's only: every other register, both banks' cells
and read data, the build, the inputs and the draws are as before. -/
def Obligations.PeAndIsRowsTouchTheirRegistersOnly : Prop :=
  ∀ (s t : State) (i : Instr), exec i s = .next t →
    (i ∈ [Instr.peIdle, .peTx, .peRx, .peEmit] → t.is = s.is)
      ∧ (i ∈ [Instr.isReset, .isWait, .isNext, .isCmd, .isParam, .isDone] → t.pe = s.pe)
      ∧ (i ∈ [Instr.peIdle, .peTx, .peRx, .peEmit, .isReset, .isWait, .isNext, .isCmd, .isParam, .isDone] →
        t.cfg = s.cfg ∧ t.sp = s.sp ∧ t.inputs = s.inputs ∧ t.extReqs = s.extReqs ∧ t.tick = s.tick
          ∧ t.mem.cur.rdata = s.mem.cur.rdata ∧ t.mem.nxt.rdata = s.mem.nxt.rdata
          ∧ ∀ a, t.mem.cur.cell a = s.mem.cur.cell a ∧ t.mem.nxt.cell a = s.mem.nxt.cell a)

/-- R202 to R206, R236 to R238, R241, R242: an SP row leaves the PE, the IS, the build, the inputs and the draws as they were. Of the SP's
registers, beyond sp_phase and sp_sub, it changes only those named here for the row. Of the banks, a reading row changes one rdata, a
writing row the one cell at the address it computes, and every other row nothing. -/
def Obligations.SpRowsTouchWhatTheyName : Prop :=
  ∀ (s t : State) (i : Instr), exec i s = .next t →
    i ∈ [Instr.spBringup, .spBeginWrite, .spRenderAddr, .spRenderByte0, .spRenderByte1, .spEvolveAddr, .spEvolveAcc, .spEvolveWrite,
      .spTransitionLoad, .spTransitionWrite] →
    (t.cfg = s.cfg ∧ t.pe = s.pe ∧ t.is = s.is ∧ t.inputs = s.inputs ∧ t.extReqs = s.extReqs ∧ t.tick = s.tick)
      ∧ (i ∉ [Instr.spBeginWrite, .spRenderByte1] → t.sp.col = s.sp.col ∧ t.sp.pag = s.sp.pag)
      ∧ (i ∉ [Instr.spRenderByte1, .spEvolveWrite, .spTransitionWrite] → t.sp.cx = s.sp.cx ∧ t.sp.cy = s.sp.cy)
      ∧ (i ∉ [Instr.spRenderByte1, .spEvolveAcc, .spEvolveWrite] → t.sp.v = s.sp.v ∧ t.sp.n = s.sp.n)
      ∧ (i ≠ .spEvolveAcc → t.sp.alive = s.sp.alive)
      ∧ (i ∉ [Instr.spRenderAddr, .spEvolveAddr] → t.mem.cur.rdata = s.mem.cur.rdata)
      ∧ (i ≠ .spTransitionLoad → t.mem.nxt.rdata = s.mem.nxt.rdata)
      ∧ (∀ a, (i = .spEvolveWrite → a ≠ cellAddr s.cfg s.sp.cx s.sp.cy) → t.mem.nxt.cell a = s.mem.nxt.cell a)
      ∧ (∀ a, (i = .spTransitionWrite → a ≠ cellAddr s.cfg s.sp.cx s.sp.cy) → t.mem.cur.cell a = s.mem.cur.cell a)

/-! Whole-machine rules. -/

/-- Every step keeps the invariant, whatever the inputs and an external producer do. -/
def Obligations.InvariantKeptByEveryStep : Prop :=
  ∀ s t : State, Inv s → step s = .next t → Inv t

/-- R260: the core has no fault and no input or request leads to an error. R262 (the spec's choice, D25): a refusal is one of its four,
the first exactly when the Cfg breaks R10; that the model has them as refusals and no fault is log entry 14 (DEDUCED). And from the reset
state of a well-formed build no step of any run refuses, whatever the inputs are. -/
def Obligations.OnlyTheFourRefusals : Prop :=
  (∀ (s : State) (f : Fault), step s ≠ .fault f)
    ∧ (∀ (s : State) (r : Refusal), step s = .refused r →
      r = .illFormedCfg ∨ r = .unreachableState ∨ r = .readDuringWrite ∨ r = .addressOutOfRange)
    ∧ (∀ s : State, step s = .refused .illFormedCfg ↔ s.cfg.wf = false)
    ∧ (∀ s : State, Inv s → ∃ t, step s = .next t)
    ∧ (∀ (c : Cfg) (inputs : List Input) (ext : List Req) (tick k : Nat), c.wf = true →
      ∃ t, runFor k (State.init c inputs ext tick) = .next t ∧ Inv t)

/-- R15, R305: a producer that offers a request the PE does not accept offers the same request in the next cycle, and done rises only in a
cycle after one in which the IS offered nothing, so the multiplexer's switch drops no request. -/
def Obligations.ProducersHoldTheirRequest : Prop :=
  ∀ s t : State, step s = .next t → s.rst = false →
    (s.reqValid = true → s.reqReady = false → t.reqValid = true ∧ t.reqLines = s.reqLines ∧ t.selected = s.selected)
      ∧ (s.done = false → t.done = true → s.isReqValid = false)

/-- R74, R210: which bank each phase reads and writes, cycle by cycle: a bank's rdata changes only in a phase that reads it and its cells
only in the phase that writes it. -/
def Obligations.PhasesOwnTheBanks : Prop :=
  ∀ s t : State, step s = .next t → s.rst = false →
    (s.sp.phase = spBRINGUP ∨ s.sp.phase = spBEGIN → t.mem = s.mem)
      ∧ (s.sp.phase = spRENDER → t.mem.cur.cells = s.mem.cur.cells ∧ t.mem.nxt = s.mem.nxt)
      ∧ (s.sp.phase = spEVOLVE → t.mem.cur.cells = s.mem.cur.cells ∧ t.mem.nxt.rdata = s.mem.nxt.rdata)
      ∧ (s.sp.phase = spTRANSITION → t.mem.nxt.cells = s.mem.nxt.cells ∧ t.mem.cur.rdata = s.mem.cur.rdata)

/-- R141: dc is 0 outside a request frame, takes the mode at acceptance, and holds it through the request frame. -/
def Obligations.ModeLineHoldsTheMode : Prop :=
  ∀ s t : State, Inv s → step s = .next t → s.rst = false →
    (s.pe.state ≠ peTX → s.dc = false)
      ∧ (∀ r, s.reqReady = true → s.port = some r → t.pe.state = peTX ∧ t.dc = r.mode)
      ∧ (s.pe.state = peTX → t.pe.state = peTX → t.dc = s.dc)

/-- R143: while the PE is not in IDLE its next registers do not depend on what the port offers, and no request is accepted; in IDLE they
do not depend on miso. -/
def Obligations.BusyPeIgnoresThePort : Prop :=
  ∀ s t s' t' : State, step s = .next t → step s' = .next t' → s.rst = false → s'.rst = false → s.cfg = s'.cfg → s.pe = s'.pe →
    (s.reqReady = false → s.miso = s'.miso → t.pe = t'.pe ∧ s.isFire = false ∧ s.spFire = false ∧ accepted s = [])
      ∧ (s.reqReady = true → s.port = s'.port → t.pe = t'.pe)

/-- R278, R261, R145: no value of miso starts, ends or lengthens a wait. Two states that differ in miso levels and in pe_rx alone step
alike, and still differ in nothing else. It compares two runs, which see the same draws in the same cycle: in a cycle with rst = 1 the two
next states agree on nxt and on both rdata registers only because the model's draws depend on the tick alone (log entry 3, DESIGN CHOICE,
unsafe for such a claim). -/
def Obligations.MisoReachesPeRxAlone : Prop :=
  ∀ (s t : State) (inputs : List Input) (rx : Byte), step s = .next t →
    inputs.map Input.rst = s.inputs.map Input.rst →
    ∃ rx', step { s with inputs := inputs, pe := { s.pe with rx := rx } }
      = .next { t with inputs := inputs.tail, pe := { t.pe with rx := rx' } }

/-- R182, R276, R300: without an external producer nothing is ever received: the response stream stays silent, step by step. -/
def Obligations.ResponseStreamStaysSilent : Prop :=
  (∀ (c : Cfg) (inputs : List Input) (tick : Nat), Silent (State.init c inputs [] tick))
    ∧ ∀ s t : State, Silent s → step s = .next t → Silent t ∧ s.rspValid = false ∧ t.rspValid = false

/-- Every register fits the width its rule gives it (R41, R47 to R49, R52, R53), in every state of the invariant. -/
def Obligations.RegistersFitTheirWidths : Prop :=
  ∀ s : State, Inv s →
    s.pe.pcnt < 2 ^ pcntWidth s.cfg ∧ s.is.cnt < 2 ^ isCntWidth s.cfg ∧ s.is.e < 2 ^ entryWidth s.cfg
      ∧ s.is.p < 2 ^ paramWidth s.cfg ∧ s.sp.col < 2 ^ colWidth s.cfg ∧ s.sp.pag < 2 ^ pagWidth s.cfg
      ∧ s.sp.cx < 2 ^ cxWidth s.cfg ∧ s.sp.cy < 2 ^ cyWidth s.cfg

/-! The wrap, the pixels and the rule of life. -/

/-- R230, R233: the wrap function's cases and range, and where it is applied: the two axes of a visit's address and of a pixel's apply it
to 0 to D + 1 only, a visit to 0 and D + 1 just where R233 says, and a pixel to neither. That it is the remainder of c + D - 1 is no
rule's wording but follows from the cases. -/
def Obligations.WrapIsTheTorus : Prop :=
  (∀ d : Nat, 1 ≤ d →
    (wrap d 0 = d - 1 ∧ wrap d (d + 1) = 0 ∧ ∀ c, 1 ≤ c → c ≤ d → wrap d c = c - 1)
      ∧ ∀ c, c ≤ d + 1 → wrap d c < d ∧ wrap d c = (c + d - 1) % d)
    ∧ (∀ (c : Cfg) (x y v : Nat), x < c.gridW → y < c.gridH → v ≤ 8 → ∃ cx cy,
      visitAddr c x y v = cellAddr c (wrap c.gridW cx) (wrap c.gridH cy)
        ∧ cx = x + v % 3 ∧ cy = y + v / 3 ∧ cx ≤ c.gridW + 1 ∧ cy ≤ c.gridH + 1
        ∧ (cx = 0 ↔ x = 0 ∧ v % 3 = 0) ∧ (cx = c.gridW + 1 ↔ x + 1 = c.gridW ∧ v % 3 = 2)
        ∧ (cy = 0 ↔ y = 0 ∧ v / 3 = 0) ∧ (cy = c.gridH + 1 ↔ y + 1 = c.gridH ∧ v / 3 = 2))
    ∧ ∀ (c : Cfg) (col pag : Nat), 1 ≤ c.scale → col < c.dispCols → pag < c.dispPages → ∃ cx cy,
      pixelAddr c col pag = cellAddr c (wrap c.gridW cx) (wrap c.gridH cy)
        ∧ cx = col / c.scale + 1 ∧ cy = pag / c.scale + 1 ∧ 1 ≤ cx ∧ cx ≤ c.gridW ∧ 1 ≤ cy ∧ cy ≤ c.gridH

/-- R231, R235, R245: every visit is the cell at its offset on the torus, so visit 4 is the target itself; every visit is in the bank;
across each edge the first and the last column, and the first and the last row, are neighbours; and on a grid of at least 3 by 3 the nine
visits of a target are nine distinct addresses. The order of the visits is the spec's choice (D19). -/
def Obligations.VisitsCoverTheNeighbourhood : Prop :=
  ∀ (c : Cfg) (x y : Nat), x < c.gridW → y < c.gridH →
    (∀ v, v ≤ 8 → visitAddr c x y v
        = cellAddr c ((x + v % 3 + c.gridW - 1) % c.gridW) ((y + v / 3 + c.gridH - 1) % c.gridH))
      ∧ visitAddr c x y 4 = cellAddr c x y
      ∧ (∀ v, v ≤ 8 → visitAddr c x y v < c.cellCount)
      ∧ (2 ≤ c.gridW → visitAddr c 0 y 3 = cellAddr c (c.gridW - 1) y ∧ visitAddr c (c.gridW - 1) y 5 = cellAddr c 0 y)
      ∧ (2 ≤ c.gridH → visitAddr c x 0 1 = cellAddr c x (c.gridH - 1) ∧ visitAddr c x (c.gridH - 1) 7 = cellAddr c x 0)
      ∧ (3 ≤ c.gridW → 3 ≤ c.gridH → ∀ u v, u ≤ 8 → v ≤ 8 → visitAddr c x y u = visitAddr c x y v → u = v)

/-- R234: the truth table of life. -/
def Obligations.LifeTruthTable : Prop :=
  ∀ n : Nat, (life true n = true ↔ n = 2 ∨ n = 3) ∧ (life false n = true ↔ n = 3)

/-- R207: a pixel shows the cell of its S by S block, and the cell is in the grid. -/
def Obligations.PixelShowsItsBlocksCell : Prop :=
  ∀ (c : Cfg) (col pag : Nat), 1 ≤ c.scale → col < c.dispCols → pag < c.dispPages →
    col / c.scale < c.gridW ∧ pag / c.scale < c.gridH
      ∧ pixelAddr c col pag = cellAddr c (col / c.scale) (pag / c.scale) ∧ pixelAddr c col pag < c.cellCount

/-! Runs of the step. -/

/-- R107 on the cycles: from any state of the invariant with the PE ready and a request on the port, bit slot k of the request frame is
the T_SETUP + T_ACTIVE cycles from 1 + k * (T_SETUP + T_ACTIVE) on: mosi is bit 7 - k, dc the mode, sclk high in the active phase, and the
PE not ready. The slot's length and its sclk are R106's, the spec's choice D4; that req_ready is 0 is R130's, the spec's choice D1. -/
def Obligations.RequestFrameOnTheLine : Prop :=
  ∀ (s : State) (r : Req) (k j : Nat), Inv s → s.reqReady = true → s.port = some r → k < 8 → j < slotCycles s.cfg →
    NoRst (1 + k * slotCycles s.cfg + j) s →
    ∃ t, runFor (1 + k * slotCycles s.cfg + j) s = .next t
      ∧ t.mosi = r.data.getLsbD (7 - k) ∧ t.dc = r.mode ∧ t.sclk = decide (s.cfg.tSetup ≤ j) ∧ t.reqReady = false

/-- R108 on the cycles: after the request frame, slot k of response byte j, with dc low and mosi a draw; the byte is on the response
stream in the one cycle after its last slot, and its bit 7 - k is the level of miso in the last cycle of slot k. R108 does not say these
clauses: the slot's length and its sclk (R106, the spec's choice D4), where the frame begins (R109, derived there), and rsp_valid and
req_ready in its slots (R130, the spec's choice D1). What it says of mosi, of the sample and of rsp_data the spec gives as its choices D7
(R135), D5 (R137) and D8 (R136); that the model's mosi is then a draw of the tick is log entry 3 (DESIGN CHOICE). Since no producer of the
core asks for a response, a request with rlen above 0 on the port is an external producer's (log entry 5, DESIGN CHOICE). -/
def Obligations.ResponseFramesOnTheLine : Prop :=
  ∀ (s : State) (r : Req) (j : Nat), Inv s → s.reqReady = true → s.port = some r → j < r.rlen.toNat →
    NoRst (byteCycles s.cfg + (j + 1) * (byteCycles s.cfg + 1)) s →
    (∀ k i, k < 8 → i < slotCycles s.cfg →
      ∃ t, runFor (1 + byteCycles s.cfg + j * (byteCycles s.cfg + 1) + k * slotCycles s.cfg + i) s = .next t
        ∧ t.pe.state = peRX ∧ t.dc = false ∧ t.mosi = Config.drawMosi t.tick ∧ t.sclk = decide (s.cfg.tSetup ≤ i)
        ∧ t.rspValid = false ∧ t.reqReady = false)
      ∧ ∃ t, runFor (byteCycles s.cfg + (j + 1) * (byteCycles s.cfg + 1)) s = .next t
        ∧ t.rspValid = true ∧ t.sclk = false ∧ t.dc = false ∧ t.mosi = Config.drawMosi t.tick
        ∧ ∀ k, k < 8 → t.rspData.getLsbD (7 - k) = s.misoAt (sampleCycle s.cfg j k)

/-- R138, R139: one transaction of the core, whoever offers it: 8 + 8n pulses, of which the first 8 carry the byte, most significant bit
first, with dc the mode, and the others dc low; n response bytes, each made of the eight levels of miso sampled for it; and L(n) + 1
cycles after its acceptance cycle the PE is in IDLE, with the registers that TXN_CMD or TXN_PARAM leaves. The cycle counts are the
reference schedule's (R109 and R144, derived there; R106, D4); n above 0 is an external producer's (log entry 5, the model's choice). That
the row's end is the PE's next IDLE cycle is the model's choice (log entry 6). -/
def Obligations.StepsRunTheTransaction : Prop :=
  ∀ (s : State) (r : Req), Inv s → s.reqReady = true → s.port = some r →
    NoRst (transactionCycles s.cfg r.rlen.toNat + 1) s →
    ∃ t u, runFor (transactionCycles s.cfg r.rlen.toNat + 1) s = .next t
      ∧ exec (if r.mode then .txnCmd r.data r.rlen else .txnParam r.data r.rlen) s = .next u
      ∧ t.pe = u.pe ∧ t.reqReady = true
      ∧ (pulsesOver (transactionCycles s.cfg r.rlen.toNat + 1) s).length = 8 + 8 * r.rlen.toNat
      ∧ (pulsesOver (transactionCycles s.cfg r.rlen.toNat + 1) s).take 8
        = (List.range 8).map (fun k => (r.data.getLsbD (7 - k), r.mode))
      ∧ (∀ q ∈ (pulsesOver (transactionCycles s.cfg r.rlen.toNat + 1) s).drop 8, q.2 = false)
      ∧ (emittedOver (transactionCycles s.cfg r.rlen.toNat + 1) s).length = r.rlen.toNat
      ∧ ∀ j b, (emittedOver (transactionCycles s.cfg r.rlen.toNat + 1) s)[j]? = some b →
        ∀ k, k < 8 → b.getLsbD (7 - k) = s.misoAt (sampleCycle s.cfg j k)

/-- R177, and R178 against R173 to R175: in the core alone, with the IS at NEXT before the end of the table, some number of steps does
exactly what the row of that entry does: the whole next state agrees, and the requests accepted meanwhile are the entry's, in order. That
a row's span is from one IS_NEXT cycle to the next is the model's choice (log entry 7). -/
def Obligations.StepsRunTheTableEntry : Prop :=
  ∀ (s : State) (en : Entry), Inv s → s.extReqs = [] → s.is.state = isNEXT → s.cfg.initTable[s.is.e]? = some en →
    (∀ i ∈ s.inputs, i.rst = false) →
    ∃ k t, 0 < k ∧ runFor k s = .next t
      ∧ exec (if en.cmd = s.cfg.cmdNop then .initNop else .initCmd en.cmd en.params) s = .next t
      ∧ acceptedOver k s = if en.cmd = s.cfg.cmdNop then [] else entryRequests en.cmd en.params

/-- R180: from reset, lcd_rst_n is 0 in the first T_RESET cycles and 1 in every later one, for as long as rst stays 0. -/
def Obligations.ResetLineLowForTheResetPulse : Prop :=
  ∀ (c : Cfg) (inputs : List Input) (ext : List Req) (tick k : Nat), c.wf = true → NoRst k (State.init c inputs ext tick) →
    ∃ t, runFor k (State.init c inputs ext tick) = .next t ∧ t.lcdRstN = decide (c.tReset ≤ k)

/-- R179, R185: from reset, the core alone accepts exactly the requests of the Init Table, in order, before done rises, and done rises
within the bound. -/
def Obligations.BringupReplaysTheTable : Prop :=
  ∀ (c : Cfg) (inputs : List Input) (tick : Nat), c.wf = true → (∀ i ∈ inputs, i.rst = false) →
    ∃ k t, runFor k (State.init c inputs [] tick) = .next t ∧ t.done = true
      ∧ acceptedOver k (State.init c inputs [] tick) = initStream c
      ∧ k ≤ c.tReset + (1 + (c.initTable.filter (fun e => e.cmd == c.cmdNop)).length) * (c.tRelease + 1)
        + (initStream c).length * (byteCycles c + 1) + c.initTable.length + 2

/-- R209, R210, R310: from BEGIN with the PE ready, the core alone sends exactly the frame of the current bank in 1 + 2 (B + 1) P cycles
and is then at the start of EVOLVE, with both banks' cells as they were. -/
def Obligations.RenderSendsTheFrame : Prop :=
  ∀ s : State, Inv s → s.extReqs = [] → s.sp.phase = spBEGIN → s.reqReady = true →
    NoRst (1 + 2 * (byteCycles s.cfg + 1) * (s.cfg.dispCols * s.cfg.dispPages)) s →
    ∃ t, runFor (1 + 2 * (byteCycles s.cfg + 1) * (s.cfg.dispCols * s.cfg.dispPages)) s = .next t
      ∧ acceptedOver (1 + 2 * (byteCycles s.cfg + 1) * (s.cfg.dispCols * s.cfg.dispPages)) s = frameStream s.cfg s.mem.cur.cells
      ∧ t.sp.phase = spEVOLVE ∧ t.sp.sub = sub0 ∧ t.sp.cx = 0 ∧ t.sp.cy = 0 ∧ t.sp.v = 0#4 ∧ t.sp.n = 0#4
      ∧ t.mem.cur.cells = s.mem.cur.cells ∧ t.mem.nxt = s.mem.nxt

/-- R239, R246: an evolve pass takes 19 N cycles, writes one generation of the current bank into the next bank, and leaves the current
bank's cells as they were. -/
def Obligations.EvolveComputesOneGeneration : Prop :=
  ∀ s : State, Inv s → s.sp.phase = spEVOLVE → s.sp.sub = sub0 → s.sp.cx = 0 → s.sp.cy = 0 → s.sp.v = 0#4 → s.sp.n = 0#4 →
    NoRst (19 * s.cfg.cellCount) s →
    ∃ t, runFor (19 * s.cfg.cellCount) s = .next t
      ∧ t.mem.nxt.cells = lifeGrid s.cfg s.mem.cur.cells ∧ t.mem.cur.cells = s.mem.cur.cells
      ∧ t.sp.phase = spTRANSITION ∧ t.sp.sub = sub0 ∧ t.sp.cx = 0 ∧ t.sp.cy = 0

/-- R243, R246: a transition pass takes 2 N cycles, copies the next bank into the current bank, and leaves the next bank's cells as they
were. -/
def Obligations.TransitionCopiesTheBank : Prop :=
  ∀ s : State, Inv s → s.sp.phase = spTRANSITION → s.sp.sub = sub0 → s.sp.cx = 0 → s.sp.cy = 0 →
    NoRst (2 * s.cfg.cellCount) s →
    ∃ t, runFor (2 * s.cfg.cellCount) s = .next t
      ∧ t.mem.cur.cells = s.mem.nxt.cells ∧ t.mem.nxt.cells = s.mem.nxt.cells
      ∧ t.sp.phase = spBEGIN ∧ t.sp.sub = sub0

/-- R244, R294: for every g, the core alone comes to the start of render pass g: so far it has sent exactly the Init Table and then one
frame of each generation 0 to g - 1 of the seed, the current bank holds generation g, and pass g's begin-write command is on the port. -/
def Obligations.FramesShowTheGenerations : Prop :=
  ∀ (c : Cfg) (inputs : List Input) (tick g : Nat), c.wf = true → (∀ i ∈ inputs, i.rst = false) →
    ∃ k t, runFor k (State.init c inputs [] tick) = .next t
      ∧ acceptedOver k (State.init c inputs [] tick)
        = initStream c ++ (List.range g).flatMap (fun i => frameStream c ((lifeGrid c)^[i] c.seed))
      ∧ t.sp.phase = spBEGIN ∧ t.port = some { data := c.cmdRamwr, mode := true, rlen := 0#4 }
      ∧ t.mem.cur.cells = (lifeGrid c)^[g] c.seed
end

