-- ==== Sys2Proof/Laws/Decode.lean ====
section
/-! SUPPORT. The REQ packing is a bijection, and the conditions of a well-formed build one by one. -/

namespace Sys2Proof

/-- Unpacking a packed request gives it back. -/
@[simp] theorem Req.unpack_pack (r : Req) : Req.unpack r.pack = r := by
  obtain ⟨d, m, n⟩ := r
  have hd : (Req.pack ⟨d, m, n⟩).extractLsb' 0 8 = d := by
    ext i hi
    simp only [Req.pack, BitVec.getElem_extractLsb', Nat.zero_add, BitVec.getLsbD_append]
    simp [show i < 1 + 8 by omega, hi]
  have hn : (Req.pack ⟨d, m, n⟩).extractLsb' 9 4 = n := by
    ext i hi
    simp only [Req.pack, BitVec.getElem_extractLsb', BitVec.getLsbD_append]
    simp [show ¬ 9 + i < 1 + 8 by omega, show 9 + i - (1 + 8) = i by omega, hi]
  have hm : (Req.pack ⟨d, m, n⟩).getLsbD 8 = m := by
    rw [Req.pack, BitVec.getLsbD_append, if_pos (by omega), BitVec.getLsbD_append, if_neg (by omega)]
    cases m <;> simp
  simp only [Req.unpack, hd, hn, hm]

/-- Packing an unpacked word gives it back: no bit is dropped. -/
@[simp] theorem Req.pack_unpack (w : BitVec 13) : (Req.unpack w).pack = w := by
  apply BitVec.eq_of_getLsbD_eq
  intro i hi
  simp only [Req.unpack, Req.pack, BitVec.getLsbD_append, BitVec.getLsbD_extractLsb', BitVec.getLsbD_ofBool]
  rcases Nat.lt_trichotomy i 8 with h | h | h
  · simp [show i < 1 + 8 by omega, h]
  · subst h
    simp
  · have h1 : ¬ i < 1 + 8 := by omega
    have h2 : i - (1 + 8) < 4 := by omega
    have h3 : 9 + (i - (1 + 8)) = i := by omega
    simp [h1, h2, h3]

/-- A request and its operation are the same data. -/
@[simp] theorem encode_toInstr (nop : Byte) (r : Req) : encode nop r.toInstr = .req r.pack := by
  obtain ⟨d, m, n⟩ := r
  cases m <;> rfl

variable {c : Cfg}

theorem Cfg.wf_gridW (h : c.wf = true) : 1 ≤ c.gridW := by simp_all [Cfg.wf]
theorem Cfg.wf_gridH (h : c.wf = true) : 1 ≤ c.gridH := by simp_all [Cfg.wf]
theorem Cfg.wf_scale (h : c.wf = true) : 1 ≤ c.scale := by simp_all [Cfg.wf]
theorem Cfg.wf_tReset (h : c.wf = true) : 1 ≤ c.tReset := by simp_all [Cfg.wf]
theorem Cfg.wf_tRelease (h : c.wf = true) : 1 ≤ c.tRelease := by simp_all [Cfg.wf]
theorem Cfg.wf_tSetup (h : c.wf = true) : 1 ≤ c.tSetup := by simp_all [Cfg.wf]
theorem Cfg.wf_tActive (h : c.wf = true) : 1 ≤ c.tActive := by simp_all [Cfg.wf]
theorem Cfg.wf_seed (h : c.wf = true) : c.seed.length = c.cellCount := by simp_all [Cfg.wf]

/-- A sentinel of a well-formed table has no parameters (R10). -/
theorem Cfg.wf_sentinel (h : c.wf = true) {e : Entry} (he : e ∈ c.initTable) (hc : e.cmd = c.cmdNop) : e.params = [] := by
  simp only [Cfg.wf, Bool.and_eq_true, List.all_eq_true] at h
  simpa [Entry.wf, hc] using h.2 e he

/-- The build of State.reset meets R10. -/
theorem Config.build_wf : Config.build.wf = true := by
  have hs : Config.build.seed.length = Config.build.cellCount := List.length_replicate
  simp only [Cfg.wf, hs, decide_true]
  rfl

end Sys2Proof
end

