-- ==== Sys2Proof/Laws/State.lean ====
section
/-! SUPPORT. One lemma per field of State per update, and what the input accessors read of an updated state. -/

namespace Sys2Proof.Machine

variable (s : State) (p : PeRegs) (q : IsRegs) (r : SpRegs) (m : Memory)

@[simp] theorem State.setPe_cfg : (s.setPe p).cfg = s.cfg := rfl
@[simp] theorem State.setPe_pe : (s.setPe p).pe = p := rfl
@[simp] theorem State.setPe_is : (s.setPe p).is = s.is := rfl
@[simp] theorem State.setPe_sp : (s.setPe p).sp = s.sp := rfl
@[simp] theorem State.setPe_mem : (s.setPe p).mem = s.mem := rfl
@[simp] theorem State.setPe_inputs : (s.setPe p).inputs = s.inputs := rfl
@[simp] theorem State.setPe_extReqs : (s.setPe p).extReqs = s.extReqs := rfl
@[simp] theorem State.setPe_tick : (s.setPe p).tick = s.tick := rfl

@[simp] theorem State.setIs_cfg : (s.setIs q).cfg = s.cfg := rfl
@[simp] theorem State.setIs_pe : (s.setIs q).pe = s.pe := rfl
@[simp] theorem State.setIs_is : (s.setIs q).is = q := rfl
@[simp] theorem State.setIs_sp : (s.setIs q).sp = s.sp := rfl
@[simp] theorem State.setIs_mem : (s.setIs q).mem = s.mem := rfl
@[simp] theorem State.setIs_inputs : (s.setIs q).inputs = s.inputs := rfl
@[simp] theorem State.setIs_extReqs : (s.setIs q).extReqs = s.extReqs := rfl
@[simp] theorem State.setIs_tick : (s.setIs q).tick = s.tick := rfl

@[simp] theorem State.setSp_cfg : (s.setSp r).cfg = s.cfg := rfl
@[simp] theorem State.setSp_pe : (s.setSp r).pe = s.pe := rfl
@[simp] theorem State.setSp_is : (s.setSp r).is = s.is := rfl
@[simp] theorem State.setSp_sp : (s.setSp r).sp = r := rfl
@[simp] theorem State.setSp_mem : (s.setSp r).mem = s.mem := rfl
@[simp] theorem State.setSp_inputs : (s.setSp r).inputs = s.inputs := rfl
@[simp] theorem State.setSp_extReqs : (s.setSp r).extReqs = s.extReqs := rfl
@[simp] theorem State.setSp_tick : (s.setSp r).tick = s.tick := rfl

@[simp] theorem State.setMem_cfg : (s.setMem m).cfg = s.cfg := rfl
@[simp] theorem State.setMem_pe : (s.setMem m).pe = s.pe := rfl
@[simp] theorem State.setMem_is : (s.setMem m).is = s.is := rfl
@[simp] theorem State.setMem_sp : (s.setMem m).sp = s.sp := rfl
@[simp] theorem State.setMem_mem : (s.setMem m).mem = m := rfl
@[simp] theorem State.setMem_inputs : (s.setMem m).inputs = s.inputs := rfl
@[simp] theorem State.setMem_extReqs : (s.setMem m).extReqs = s.extReqs := rfl
@[simp] theorem State.setMem_tick : (s.setMem m).tick = s.tick := rfl

@[simp] theorem State.advance_cfg : s.advance.cfg = s.cfg := rfl
@[simp] theorem State.advance_pe : s.advance.pe = s.pe := rfl
@[simp] theorem State.advance_is : s.advance.is = s.is := rfl
@[simp] theorem State.advance_sp : s.advance.sp = s.sp := rfl
@[simp] theorem State.advance_mem : s.advance.mem = s.mem := rfl
@[simp] theorem State.advance_inputs : s.advance.inputs = s.inputs.tail := rfl
@[simp] theorem State.advance_extReqs : s.advance.extReqs = s.extReqs := rfl
@[simp] theorem State.advance_tick : s.advance.tick = s.tick + 1 := rfl

@[simp] theorem State.afterRst_cfg : s.afterRst.cfg = s.cfg := rfl
@[simp] theorem State.afterRst_pe : s.afterRst.pe = PeRegs.reset := rfl
@[simp] theorem State.afterRst_is : s.afterRst.is = IsRegs.reset := rfl
@[simp] theorem State.afterRst_sp : s.afterRst.sp = SpRegs.reset := rfl
@[simp] theorem State.afterRst_mem : s.afterRst.mem = Memory.atReset s.cfg (s.tick + 1) := rfl
@[simp] theorem State.afterRst_inputs : s.afterRst.inputs = s.inputs.tail := rfl
@[simp] theorem State.afterRst_extReqs : s.afterRst.extReqs = s.extReqs := rfl
@[simp] theorem State.afterRst_tick : s.afterRst.tick = s.tick + 1 := rfl

@[simp] theorem State.setPe_rst : (s.setPe p).rst = s.rst := rfl
@[simp] theorem State.setPe_misoAt (k : Nat) : (s.setPe p).misoAt k = s.misoAt k := rfl
@[simp] theorem State.setPe_miso : (s.setPe p).miso = s.miso := rfl
@[simp] theorem State.setIs_rst : (s.setIs q).rst = s.rst := rfl
@[simp] theorem State.setIs_misoAt (k : Nat) : (s.setIs q).misoAt k = s.misoAt k := rfl
@[simp] theorem State.setIs_miso : (s.setIs q).miso = s.miso := rfl
@[simp] theorem State.setSp_rst : (s.setSp r).rst = s.rst := rfl
@[simp] theorem State.setSp_misoAt (k : Nat) : (s.setSp r).misoAt k = s.misoAt k := rfl
@[simp] theorem State.setSp_miso : (s.setSp r).miso = s.miso := rfl
@[simp] theorem State.setMem_rst : (s.setMem m).rst = s.rst := rfl
@[simp] theorem State.setMem_misoAt (k : Nat) : (s.setMem m).misoAt k = s.misoAt k := rfl
@[simp] theorem State.setMem_miso : (s.setMem m).miso = s.miso := rfl

@[simp] theorem State.setPe_self : s.setPe s.pe = s := rfl
@[simp] theorem State.setIs_self : s.setIs s.is = s := rfl
@[simp] theorem State.setSp_self : s.setSp s.sp = s := rfl
@[simp] theorem State.setMem_self : s.setMem s.mem = s := rfl

/-- After a cycle, what was k + 1 cycles away is k cycles away. -/
@[simp] theorem State.misoAt_advance (k : Nat) : s.advance.misoAt k = s.misoAt (k + 1) := by
  simp only [misoAt, advance_inputs, advance_tick]
  rw [show s.inputs.tail[k]? = s.inputs[k + 1]? by cases s.inputs <;> simp, Nat.add_assoc, Nat.add_comm 1 k]

@[simp] theorem State.misoAt_zero : s.misoAt 0 = s.miso := rfl

/-- Two states are equal when their fields are. -/
theorem State.ext_fields {s t : State} (h1 : s.cfg = t.cfg) (h2 : s.pe = t.pe) (h3 : s.is = t.is) (h4 : s.sp = t.sp)
    (h5 : s.mem = t.mem) (h6 : s.inputs = t.inputs) (h7 : s.extReqs = t.extReqs) (h8 : s.tick = t.tick) : s = t := by
  cases s; cases t; simp_all

end Sys2Proof.Machine
end

