-- ==== Sys2Proof/Laws/Ops.lean ====
section
/-! SUPPORT. One lemma per shared operation: what register increments, the bank ports, the SP's commit and the lockstep join can do. -/

namespace Sys2Proof.Machine

/-- clog2 is a ceiling: the range fits. -/
theorem le_two_pow_clog2 (n : Nat) : n ≤ 2 ^ clog2 n := by
  unfold clog2
  split
  · simpa
  · have h := Nat.lt_log2_self (n := n - 1)
    omega

/-- A register holds every value of its range. -/
theorem le_two_pow_regWidth (n : Nat) : n ≤ 2 ^ regWidth n :=
  (le_two_pow_clog2 n).trans (Nat.pow_le_pow_right (by decide) (le_max_right 1 _))

/-- An increment below the width's limit does not wrap (D26). -/
theorem bump_eq {w v : Nat} (h : v + 1 < 2 ^ w) : bump w v = v + 1 := Nat.mod_eq_of_lt h

/-- An increment inside a register's range does not wrap. -/
theorem bump_regWidth {n v : Nat} (h : v + 1 < n) : bump (regWidth n) v = v + 1 :=
  bump_eq (h.trans_le (le_two_pow_regWidth n))

/-- What a bank's clock can answer (R16, R72, R73, R75, R76). -/
theorem Bank.clock_ok {b b' : Bank} {c : BankPorts} (h : b.clock c = .ok b') :
    (c.read = none ∧ c.write = none ∧ b' = b)
      ∨ (∃ a v, c.read = some a ∧ c.write = none ∧ b.cell a = some v ∧ b' = { b with rdata := v })
      ∨ (∃ a v w, c.read = none ∧ c.write = some (a, v) ∧ b.cell a = some w ∧ b' = { b with cells := b.cells.set a v }) := by
  unfold Bank.clock at h
  split at h
  · next hr hw => exact .inl ⟨hr, hw, by injection h with h; exact h.symm⟩
  · next a hr hw =>
    split at h
    · next v hv => exact .inr (.inl ⟨a, v, hr, hw, hv, by injection h with h; exact h.symm⟩)
    · cases h
  · next a v hr hw =>
    split at h
    · next w hv => exact .inr (.inr ⟨a, v, w, hr, hw, hv, by injection h with h; exact h.symm⟩)
    · cases h
  · cases h

@[simp] theorem Bank.clock_quiet (b : Bank) : b.clock .quiet = .ok b := rfl

/-- A read of an address the bank has. -/
theorem Bank.clock_memRead {b : Bank} {a : Nat} (h : a < b.cells.length) :
    b.clock (.memRead a) = .ok { b with rdata := b.cells[a] } := by
  simp [Bank.clock, BankPorts.memRead, Bank.cell, h]

/-- A write to an address the bank has. -/
theorem Bank.clock_memWrite {b : Bank} {a : Nat} (v : Bool) (h : a < b.cells.length) :
    b.clock (.memWrite a v) = .ok { b with cells := b.cells.set a v } := by
  simp [Bank.clock, BankPorts.memWrite, Bank.cell, h]

/-- An address the bank does not have is refused, for a read and for a write (R76). -/
theorem Bank.clock_outOfRange {b : Bank} {a : Nat} (v : Bool) (h : b.cells.length ≤ a) :
    b.clock (.memRead a) = .error .addressOutOfRange ∧ b.clock (.memWrite a v) = .error .addressOutOfRange := by
  simp [Bank.clock, BankPorts.memRead, BankPorts.memWrite, Bank.cell, h]

/-- A read that answers: no cell changes, and rdata is the cell read (R72). -/
theorem Bank.clock_memRead_ok {b b' : Bank} {a : Nat} (h : b.clock (.memRead a) = .ok b') :
    b'.cells = b.cells ∧ b.cell a = some b'.rdata := by
  rcases Bank.clock_ok h with ⟨h1, -, -⟩ | ⟨_, _, h1, -, h2, rfl⟩ | ⟨_, _, _, h1, -, -⟩ <;> simp [BankPorts.memRead] at h1
  subst h1
  exact ⟨rfl, h2⟩

/-- A write that answers: rdata stays, and the one cell changes (R73). -/
theorem Bank.clock_memWrite_ok {b b' : Bank} {a : Nat} {v : Bool} (h : b.clock (.memWrite a v) = .ok b') :
    b'.rdata = b.rdata ∧ b'.cells = b.cells.set a v ∧ a < b.cells.length := by
  rcases Bank.clock_ok h with ⟨-, h1, -⟩ | ⟨_, _, -, h1, -, -⟩ | ⟨_, _, _, -, h1, h2, rfl⟩ <;> simp [BankPorts.memWrite] at h1
  obtain ⟨rfl, rfl⟩ := h1
  exact ⟨rfl, rfl, (List.getElem?_eq_some_iff.1 h2).1⟩

/-- A bank that is not used keeps everything. -/
theorem Bank.clock_quiet_ok {b b' : Bank} (h : b.clock .quiet = .ok b') : b' = b := by simpa [eq_comm] using h

/-- Every port operation keeps the number of cells (Memory.wf). -/
theorem Bank.clock_length {b b' : Bank} {c : BankPorts} (h : b.clock c = .ok b') : b'.cells.length = b.cells.length := by
  obtain ⟨-, -, rfl⟩ | ⟨a, v, -, -, -, rfl⟩ | ⟨a, v, w, -, -, -, rfl⟩ := Bank.clock_ok h <;> simp

/-- A read after a write: the written bit at its address, the old bit at every other (R73). -/
theorem Bank.cell_set (b : Bank) (a k : Nat) (v : Bool) (h : a < b.cells.length) :
    ({ b with cells := b.cells.set a v } : Bank).cell k = if k = a then some v else b.cell k := by
  simp only [Bank.cell, List.getElem?_set]
  split <;> simp_all [eq_comm]

/-- Everything the SP's commit can do when it answers a next state. -/
theorem spCommit_next {s t : State} {r : SpRegs} {cur nxt : BankPorts} (h : spCommit s r cur nxt = .next t) :
    ∃ c n, s.mem.cur.clock cur = .ok c ∧ s.mem.nxt.clock nxt = .ok n ∧ t = (s.setSp r).setMem ⟨c, n⟩ := by
  unfold spCommit at h
  split at h
  · next c n hc hn => exact ⟨c, n, hc, hn, by injection h with h; exact h.symm⟩
  · cases h
  · cases h

/-- The SP's commit when both banks answer. -/
theorem spCommit_of_ok {s : State} {r : SpRegs} {cur nxt : BankPorts} {c n : Bank}
    (hc : s.mem.cur.clock cur = .ok c) (hn : s.mem.nxt.clock nxt = .ok n) :
    spCommit s r cur nxt = .next ((s.setSp r).setMem ⟨c, n⟩) := by
  simp [spCommit, hc, hn]

/-- A cycle in which the SP uses no bank. -/
@[simp] theorem spCommit_quiet (s : State) (r : SpRegs) : spCommit s r .quiet .quiet = .next (s.setSp r) := rfl

/-- The commit never faults. -/
theorem spCommit_ne_fault (s : State) (r : SpRegs) (cur nxt : BankPorts) (f : Fault) : spCommit s r cur nxt ≠ .fault f := by
  cases f

/-- Every memory operation of the SP keeps the memory's form. -/
theorem spCommit_keeps_wf {s t : State} {r : SpRegs} {cur nxt : BankPorts} {n : Nat} (h : spCommit s r cur nxt = .next t)
    (hw : Memory.wf n s.mem = true) : Memory.wf n t.mem = true := by
  obtain ⟨c, n', hc, hn, rfl⟩ := spCommit_next h
  simpa [Memory.wf, Bank.clock_length hc, Bank.clock_length hn] using hw

/-- The memory at reset has the memory's form. -/
theorem Memory.atReset_wf {c : Cfg} (h : c.seed.length = c.cellCount) (tick : Nat) :
    Memory.wf c.cellCount (Memory.atReset c tick) = true := by
  simp [Memory.wf, Memory.atReset, h]

/-- The lockstep join of three next states. -/
theorem joinCycle_next {s p q r : State} (ext : List Req) :
    joinCycle s ext (.next p) (.next q) (.next r)
      = .next { s with pe := p.pe, is := q.is, sp := r.sp, mem := r.mem, extReqs := ext }.advance := rfl

/-- When the join answers a next state, all three machines did. -/
theorem joinCycle_eq_next {s t : State} {ext : List Req} {a b c : Host.Outcome State Fault Refusal}
    (h : joinCycle s ext a b c = .next t) :
    ∃ p q r, a = .next p ∧ b = .next q ∧ c = .next r
      ∧ t = { s with pe := p.pe, is := q.is, sp := r.sp, mem := r.mem, extReqs := ext }.advance := by
  cases a <;> cases b <;> cases c <;> simp_all [joinCycle]

end Sys2Proof.Machine
end

