-- ==== Sys2Proof/Laws/Step.lean ====
section
/-! SUPPORT. What each row can do as a machine's cycle, and what one step of the core can do: the inversion lemma every invariant cites. -/

namespace Sys2Proof.Machine

/-- The IS's registers after a cycle, by its state code (R171 to R176). -/
def isRule (s : State) : IsRegs :=
  if s.is.state = isRESET then isCountRule s.cfg s.cfg.tReset isWAIT s.is
  else if s.is.state = isWAIT then isCountRule s.cfg s.cfg.tRelease isNEXT s.is
  else if s.is.state = isNEXT then isNextRule s.cfg s.is
  else if s.is.state = isCMD then isCmdRule s.cfg s.isFire s.is
  else if s.is.state = isPARAM then isParamRule s.cfg s.isFire s.is
  else s.is

/-- The PE's row of any code is the PE's rule of that code. -/
theorem exec_peRow (s : State) :
    exec (decodePeState s.pe.state) s = .next (s.setPe (peRule s.cfg s.port s.miso s.pe)) := by
  unfold decodePeState peRule
  split_ifs <;> rfl

/-- The IS's row of a listed code is the IS's rule of that code. -/
theorem exec_isRow {s : State} {j : Instr} (h : decodeIsState s.is.state = .ok j) :
    exec j s = .next (s.setIs (isRule s)) := by
  unfold decodeIsState at h
  unfold isRule
  split_ifs at h ⊢ <;> (injection h with h; subst h; rfl)

/-- Which SP row a listed code is. -/
theorem decodeSp_cases {c : BitVec 5} {k : Instr} (h : decodeSpState c = .ok k) :
    (c = 0b00000#5 ∧ k = .spBringup) ∨ (c = 0b00100#5 ∧ k = .spBeginWrite) ∨ (c = 0b01000#5 ∧ k = .spRenderAddr)
      ∨ (c = 0b01001#5 ∧ k = .spRenderByte0) ∨ (c = 0b01010#5 ∧ k = .spRenderByte1) ∨ (c = 0b01100#5 ∧ k = .spEvolveAddr)
      ∨ (c = 0b01101#5 ∧ k = .spEvolveAcc) ∨ (c = 0b01110#5 ∧ k = .spEvolveWrite)
      ∨ (c = 0b10000#5 ∧ k = .spTransitionLoad) ∨ (c = 0b10001#5 ∧ k = .spTransitionWrite) := by
  unfold decodeSpState at h
  split_ifs at h <;> (injection h with h; subst h; simp_all)

/-- The three codes of a cycle that fetch answers. -/
theorem fetchCycle_ok {s : State} {i j k : Instr} :
    fetchCycle s = .ok (i, j, k) ↔
      i = decodePeState s.pe.state ∧ decodeIsState s.is.state = .ok j ∧ decodeSpState (s.sp.phase ++ s.sp.sub) = .ok k := by
  unfold fetchCycle State.peCode State.isCode State.spCode
  simp only [decode]
  constructor
  · intro h
    split at h
    · next i' j' k' hi hj hk =>
      simp only [Except.ok.injEq, Prod.mk.injEq] at h hi
      obtain ⟨rfl, rfl, rfl⟩ := h
      exact ⟨hi.symm, hj, hk⟩
    · cases h
  · rintro ⟨rfl, hj, hk⟩
    simp [hj, hk]

/-- A code without a meaning is the only thing fetch refuses. -/
theorem fetchCycle_error {s : State} {r : Refusal} (h : fetchCycle s = .error r) : r = .unreachableState := by
  unfold fetchCycle at h
  split at h
  · cases h
  · cases h; rfl

/-- A cycle of a well-formed build without rst, when its codes are listed: the join of the three rows. -/
theorem step_of_fetch {s : State} {j k : Instr} (hw : s.cfg.wf = true) (hr : s.rst = false)
    (hj : decodeIsState s.is.state = .ok j) (hk : decodeSpState (s.sp.phase ++ s.sp.sub) = .ok k) :
    step s = joinCycle s s.extAfter (.next (s.setPe (peRule s.cfg s.port s.miso s.pe))) (.next (s.setIs (isRule s))) (exec k s) := by
  have hf : fetchCycle s = .ok (decodePeState s.pe.state, j, k) := fetchCycle_ok.2 ⟨rfl, hj, hk⟩
  simp [step, hw, hr, hf, exec_peRow, exec_isRow hj]

/-- Everything one step can do when it answers a next state: rst, or one cycle of all three machines from the same state. -/
theorem step_next {s t : State} (h : step s = .next t) :
    s.cfg.wf = true ∧
      ((s.rst = true ∧ t = s.afterRst) ∨
        (s.rst = false ∧ ∃ j k u, decodeIsState s.is.state = .ok j ∧ decodeSpState (s.sp.phase ++ s.sp.sub) = .ok k
          ∧ exec k s = .next u ∧ t.cfg = s.cfg ∧ t.pe = peRule s.cfg s.port s.miso s.pe ∧ t.is = isRule s
          ∧ t.sp = u.sp ∧ t.mem = u.mem ∧ t.inputs = s.inputs.tail ∧ t.extReqs = s.extAfter ∧ t.tick = s.tick + 1)) := by
  unfold step at h
  split at h
  · next hw =>
    refine ⟨hw, ?_⟩
    split at h
    · next hr => exact .inl ⟨hr, by injection h with h; exact h.symm⟩
    · next hr =>
      simp only [Bool.not_eq_true] at hr
      refine .inr ⟨hr, ?_⟩
      split at h
      · next i j k hf =>
        obtain ⟨rfl, hj, hk⟩ := fetchCycle_ok.1 hf
        obtain ⟨p, q, u, hp, hq, hu, rfl⟩ := joinCycle_eq_next h
        rw [exec_peRow] at hp
        rw [exec_isRow hj] at hq
        injection hp with hp
        injection hq with hq
        subst hp hq
        exact ⟨j, k, u, hj, hk, hu, rfl, rfl, rfl, rfl, rfl, rfl, rfl, rfl⟩
      · cases h
  · cases h

/-- No step changes the build. -/
theorem step_cfg {s t : State} (h : step s = .next t) : t.cfg = s.cfg := by
  obtain ⟨-, ⟨-, rfl⟩ | ⟨-, _, _, _, -, -, -, hc, -⟩⟩ := step_next h
  · rfl
  · exact hc

/-- The PE's registers after a cycle without rst depend on its own registers, the port and miso alone. -/
theorem step_pe {s t : State} (h : step s = .next t) (hr : s.rst = false) : t.pe = peRule s.cfg s.port s.miso s.pe := by
  obtain ⟨-, ⟨hr', -⟩ | ⟨-, _, _, _, -, -, -, -, hp, -⟩⟩ := step_next h
  · simp [hr] at hr'
  · exact hp

/-- The IS's registers after a cycle without rst. -/
theorem step_is {s t : State} (h : step s = .next t) (hr : s.rst = false) : t.is = isRule s := by
  obtain ⟨-, ⟨hr', -⟩ | ⟨-, _, _, _, -, -, -, -, -, hi, -⟩⟩ := step_next h
  · simp [hr] at hr'
  · exact hi

/-- Every step advances the inputs and the draws. -/
theorem step_inputs {s t : State} (h : step s = .next t) : t.inputs = s.inputs.tail ∧ t.tick = s.tick + 1 := by
  obtain ⟨-, ⟨-, rfl⟩ | ⟨-, _, _, _, -, -, -, -, -, -, -, -, hi, -, ht⟩⟩ := step_next h
  · exact ⟨rfl, rfl⟩
  · exact ⟨hi, ht⟩

end Sys2Proof.Machine
end

