-- ==== Sys2Proof/Laws/Engine.lean ====
section
/-! SUPPORT. The Protocol Engine's rules case by case, the request port, and the closed form of a bit slot and of a byte frame. -/

namespace Sys2Proof.Machine

open Sys2Proof.Safety

/-- Inside the setup phase the phase counter does not wrap. -/
theorem bump_setup {c : Cfg} {v : Nat} (h : v + 1 < c.tSetup) : bump (pcntWidth c) v = v + 1 := bump_regWidth (by omega)

/-- Inside the active phase the phase counter does not wrap. -/
theorem bump_active {c : Cfg} {v : Nat} (h : v + 1 < c.tActive) : bump (pcntWidth c) v = v + 1 := bump_regWidth (by omega)

/-- Bit i of pe_rx after a sample (R133). -/
theorem getLsbD_shiftIn (rx : Byte) (m : Bool) {i : Nat} (h : i < 8) :
    (shiftIn rx m).getLsbD i = if i = 0 then m else rx.getLsbD (i - 1) := by
  rw [shiftIn, BitVec.getLsbD_append]
  by_cases hi : i = 0
  · subst hi; simp
  · simp [hi, show ¬ i < 1 by omega, show i - 1 < 7 by omega]

variable {c : Cfg} {o : Option Req} {m : Bool} {p : PeRegs}

theorem peRule_idle (h : p.state = peIDLE) : peRule c o m p = peIdleRule o p := by simp [peRule, h]
theorem peRule_tx (h : p.state = peTX) : peRule c o m p = peTxRule c p := by simp [peRule, h]
theorem peRule_rx (h : p.state = peRX) : peRule c o m p = peRxRule c m p := by simp [peRule, h]
theorem peRule_emit (h : p.state = peEMIT) : peRule c o m p = peEmitRule p := by simp [peRule, h]

/-- An idle PE to which nothing is offered changes nothing. -/
theorem peRule_idle_none (h : p.state = peIDLE) : peRule c none m p = p := peRule_idle h

/-- Outside IDLE the PE does not read the port (R143). -/
theorem peRule_port (h : p.state ≠ peIDLE) (o' : Option Req) : peRule c o m p = peRule c o' m p := by
  simp only [peRule, if_neg h]

/-- What an external producer still offers after a cycle (log entry 5). -/
theorem extAfter_eq (s : State) : s.extAfter = if s.reqReady then s.extReqs.tail else s.extReqs := by
  unfold State.extAfter State.extFire State.selected
  cases h : s.extReqs
  · by_cases hd : s.done = true <;> simp [hd]
  · simp

/-- The core's own producers ask for no response byte (R182, R201). -/
theorem port_rlen {s : State} (he : s.extReqs = []) {r : Req} (h : s.port = some r) : r.rlen = 0#4 := by
  unfold State.port at h
  split at h
  · cases h
    simp only [State.reqLines, State.selected, he, List.isEmpty_nil, if_true]
    by_cases hd : s.done = true <;> simp [hd, State.isReq, State.spReq]
  · cases h

variable {ms : Nat → Bool}

/-- A trace goes on from where it is. -/
theorem peTrace_add (a b : Nat) : peTrace c ms p (a + b) = peTrace c (fun k => ms (a + k)) (peTrace c ms p a) b := by
  induction b with
  | zero => rfl
  | succ b ih => rw [← Nat.add_assoc, peTrace, peTrace, ih]

/-- With nothing offered an idle PE stays as it is (R131). -/
theorem peTrace_idle (h : p.state = peIDLE) (k : Nat) : peTrace c ms p k = p := by
  induction k with
  | zero => rfl
  | succ k ih => rw [peTrace, ih]; simp [peRule, h, peIdleRule]

/-- With nothing offered no request frame begins and no byte is taken in: only an acceptance does (R131 to R134). -/
theorem peRule_none (m : Bool) : (peRule c none m p).tx = p.tx ∧ ((peRule c none m p).state = peTX → p.state = peTX) := by
  unfold peRule peTxRule peRxRule bitSlotRule txBitEnd rxBitEnd peEmitRule
  split_ifs <;> (try split) <;> simp_all [peIdleRule]

/-- Waiting cycles without rst: the PE's trace, with the inputs and the draws of those cycles used up. -/
theorem waitCycles_ok (k : Nat) (s : State) (h : NoRst k s) :
    waitCycles k s
      = .ok { s with pe := peTrace s.cfg s.misoAt s.pe k, inputs := s.inputs.drop k, tick := s.tick + k } := by
  induction k generalizing s with
  | zero => simp [waitCycles, peTrace]
  | succ k ih =>
    have hr : s.rst = false := by
      unfold State.rst
      split
      · rfl
      · exact h _ (by simp [*])
    have hn : NoRst k (s.setPe (peRule s.cfg none s.miso s.pe)).advance := by
      intro i hi
      refine h i ?_
      cases hs : s.inputs with
      | nil => simp [State.advance, State.setPe, hs] at hi
      | cons a l => simp only [State.advance, State.setPe, hs, List.tail_cons] at hi; simp [hi]
    have hm : (s.setPe (peRule s.cfg none s.miso s.pe)).advance.misoAt = fun j => s.misoAt (1 + j) := by
      funext j; simp [Nat.add_comm]
    simp only [waitCycles, peCycle, hr, Bool.false_eq_true, if_false, Except.bind, ih _ hn, hm]
    rw [show k + 1 = 1 + k from Nat.add_comm _ _, peTrace_add]
    simp [State.advance, State.setPe, peTrace, State.misoAt_zero, show s.tick + 1 + k = s.tick + (1 + k) by omega, Nat.add_comm 1 k]

/-- What the last cycle of a bit slot does, in TX and in RX. -/
def slotEnd (m : Bool) (p : PeRegs) : PeRegs := if p.state = peTX then txBitEnd p else rxBitEnd m p

/-- The PE in TX or RX runs a bit slot's cycle. -/
theorem peRule_slot (h : p.state = peTX ∨ p.state = peRX) : peRule c o m p = bitSlotRule c p (slotEnd m) := by
  rcases h with h | h
  · rw [peRule_tx h, peTxRule]
    unfold bitSlotRule
    simp [slotEnd, h]
  · rw [peRule_rx h, peRxRule]
    unfold bitSlotRule
    simp [slotEnd, h]

/-- Inside a bit slot only the phase and its counter move (R106). -/
theorem peTrace_inSlot (hs : 1 ≤ c.tSetup) (hst : p.state = peTX ∨ p.state = peRX)
    (hph : p.ph = .setup) (hpc : p.pcnt = 0) {j : Nat} (hj : j < c.tSetup + c.tActive) :
    peTrace c ms p j
      = { p with
          ph := if j < c.tSetup then .setup else .active
          pcnt := if j < c.tSetup then j else j - c.tSetup } := by
  induction j with
  | zero =>
    obtain ⟨⟩ := p
    simp_all [peTrace, show 0 < c.tSetup by omega]
  | succ j ih =>
    rw [peTrace, ih (by omega), peRule_slot (by exact hst)]
    rcases Nat.lt_trichotomy (j + 1) c.tSetup with h | h | h
    · simp [bitSlotRule, show j < c.tSetup by omega, h, show ¬ j = c.tSetup - 1 by omega, bump_setup h]
    · simp [bitSlotRule, show j = c.tSetup - 1 by omega,
        show c.tSetup - 1 < c.tSetup by omega, show c.tSetup - 1 + 1 = c.tSetup by omega]
    · simp [bitSlotRule, show ¬ j < c.tSetup by omega, show ¬ j + 1 < c.tSetup by omega,
        show ¬ j - c.tSetup = c.tActive - 1 by omega, bump_active (v := j - c.tSetup) (c := c) (by omega)]
      omega

/-- The whole bit slot: the phase and its counter are back, and the slot's last cycle has done its work. -/
theorem peTrace_slot (hs : 1 ≤ c.tSetup) (ha : 1 ≤ c.tActive) (hst : p.state = peTX ∨ p.state = peRX)
    (hph : p.ph = .setup) (hpc : p.pcnt = 0) :
    peTrace c ms p (c.tSetup + c.tActive) = slotEnd (ms (c.tSetup + c.tActive - 1)) p := by
  obtain ⟨n, hn⟩ : ∃ n, c.tSetup + c.tActive = n + 1 := ⟨c.tSetup + c.tActive - 1, by omega⟩
  rw [hn, peTrace, peTrace_inSlot hs hst hph hpc (by omega), peRule_slot (by exact hst)]
  simp only [show ¬ n < c.tSetup by omega, if_false, bitSlotRule, show ¬ (n - c.tSetup ≠ c.tActive - 1) by omega,
    Nat.add_sub_cancel]
  rw [← hph, ← hpc]

/-- The first k bits of a request frame (R107). -/
theorem peTrace_requestBits (hs : 1 ≤ c.tSetup) (ha : 1 ≤ c.tActive) (hst : p.state = peTX) (hph : p.ph = .setup)
    (hpc : p.pcnt = 0) (hb : p.bit = 7#3) {k : Nat} (hk : k < 8) :
    peTrace c ms p (k * (c.tSetup + c.tActive)) = { p with bit := 7#3 - BitVec.ofNat 3 k } := by
  induction k with
  | zero => simp [peTrace, ← hb]
  | succ k ih =>
    rw [Nat.add_mul, Nat.one_mul, peTrace_add, ih (by omega), peTrace_slot hs ha (.inl (by exact hst)) (by exact hph) (by exact hpc)]
    have h1 : 7#3 - BitVec.ofNat 3 k ≠ 0#3 := by
      intro h
      have : k = 0 ∨ k = 1 ∨ k = 2 ∨ k = 3 ∨ k = 4 ∨ k = 5 ∨ k = 6 := by omega
      rcases this with rfl | rfl | rfl | rfl | rfl | rfl | rfl <;> revert h <;> decide
    have h2 : 7#3 - BitVec.ofNat 3 k - 1#3 = 7#3 - BitVec.ofNat 3 (k + 1) := by
      rw [BitVec.ofNat_add]; bv_omega
    simp only [slotEnd, hst, if_true, txBitEnd, ne_eq, h1, not_false_eq_true, h2]

/-- A whole request frame: back to IDLE, or on to the first response frame (R107, R132). -/
theorem peTrace_requestFrame (hs : 1 ≤ c.tSetup) (ha : 1 ≤ c.tActive) (hst : p.state = peTX) (hph : p.ph = .setup)
    (hpc : p.pcnt = 0) (hb : p.bit = 7#3) :
    peTrace c ms p (8 * (c.tSetup + c.tActive))
      = if p.rem = 0#4 then { p with bit := 0#3, dc := false, state := peIDLE } else { p with dc := false, state := peRX } := by
  rw [show 8 * (c.tSetup + c.tActive) = 7 * (c.tSetup + c.tActive) + (c.tSetup + c.tActive) by omega, peTrace_add,
    peTrace_requestBits hs ha hst hph hpc hb (by omega),
    peTrace_slot hs ha (.inl (by exact hst)) (by exact hph) (by exact hpc)]
  simp only [slotEnd, hst, if_true, txBitEnd]
  split_ifs <;> simp_all

/-- The first k bits of a response frame (R108, R133): pe_rx has taken in one sample at the end of each slot. -/
theorem peTrace_responseBits (hs : 1 ≤ c.tSetup) (ha : 1 ≤ c.tActive) (hst : p.state = peRX) (hph : p.ph = .setup)
    (hpc : p.pcnt = 0) (hb : p.bit = 7#3) {k : Nat} (hk : k < 8) :
    peTrace c ms p (k * (c.tSetup + c.tActive))
      = { p with
          bit := 7#3 - BitVec.ofNat 3 k
          rx := ((List.range k).map fun i => ms ((i + 1) * (c.tSetup + c.tActive) - 1)).foldl shiftIn p.rx } := by
  induction k with
  | zero => simp [peTrace, ← hb]
  | succ k ih =>
    rw [Nat.add_mul, Nat.one_mul, peTrace_add, ih (by omega), peTrace_slot hs ha (.inr (by exact hst)) (by exact hph) (by exact hpc)]
    have h1 : 7#3 - BitVec.ofNat 3 k ≠ 0#3 := by
      intro h
      have : k = 0 ∨ k = 1 ∨ k = 2 ∨ k = 3 ∨ k = 4 ∨ k = 5 ∨ k = 6 := by omega
      rcases this with rfl | rfl | rfl | rfl | rfl | rfl | rfl <;> revert h <;> decide
    have h2 : 7#3 - BitVec.ofNat 3 k - 1#3 = 7#3 - BitVec.ofNat 3 (k + 1) := by
      rw [BitVec.ofNat_add]; bv_omega
    have h3 : k * (c.tSetup + c.tActive) + (c.tSetup + c.tActive - 1) = (k + 1) * (c.tSetup + c.tActive) - 1 := by
      rw [Nat.add_mul]; omega
    simp [slotEnd, hst, rxBitEnd, h1, h2, h3, List.range_succ, List.foldl_append]

/-- A whole response frame: EMIT, with all eight samples in pe_rx (R108, R133). -/
theorem peTrace_responseFrame (hs : 1 ≤ c.tSetup) (ha : 1 ≤ c.tActive) (hst : p.state = peRX) (hph : p.ph = .setup)
    (hpc : p.pcnt = 0) (hb : p.bit = 7#3) :
    peTrace c ms p (8 * (c.tSetup + c.tActive))
      = { p with
          bit := 0#3
          rx := ((List.range 8).map fun i => ms ((i + 1) * (c.tSetup + c.tActive) - 1)).foldl shiftIn p.rx
          state := peEMIT } := by
  rw [show 8 * (c.tSetup + c.tActive) = 7 * (c.tSetup + c.tActive) + (c.tSetup + c.tActive) by omega, peTrace_add,
    peTrace_responseBits hs ha hst hph hpc hb (by omega),
    peTrace_slot hs ha (.inr (by exact hst)) (by exact hph) (by exact hpc)]
  have h3 : 7 * (c.tSetup + c.tActive) + (c.tSetup + c.tActive - 1) = (7 + 1) * (c.tSetup + c.tActive) - 1 := by omega
  have h8 : List.range 8 = List.range 7 ++ [7] := List.range_succ
  simp only [slotEnd, hst, rxBitEnd, h3, h8, List.map_append, List.foldl_append]
  simp

end Sys2Proof.Machine
end

