-- ==== Sys2Proof/Laws/Grid.lean ====
section
/-! SUPPORT. The wrap function, grid addresses, Init Table reads and the memory's form, as later proofs use them. -/

namespace Sys2Proof.Machine

@[simp] theorem wrap_zero (d : Nat) : wrap d 0 = d - 1 := rfl

@[simp] theorem wrap_last (d : Nat) : wrap d (d + 1) = 0 := by simp [wrap]

/-- Inside the grid the 1-based scan coordinate is one more than the cell's. -/
theorem wrap_succ {d x : Nat} (h : x < d) : wrap d (x + 1) = x := by
  unfold wrap
  rw [if_neg (by omega), if_neg (by omega)]
  omega

/-- The wrap of a scan coordinate is in the grid. -/
theorem wrap_lt {d c : Nat} (hd : 1 ≤ d) (h : c ≤ d + 1) : wrap d c < d := by
  unfold wrap
  split_ifs <;> omega

/-- On its domain the wrap is the remainder on the torus. -/
theorem wrap_eq_mod {d c : Nat} (hd : 1 ≤ d) (h : c ≤ d + 1) : wrap d c = (c + d - 1) % d := by
  unfold wrap
  split_ifs with h1 h2
  · rw [h1, Nat.mod_eq_of_lt] <;> omega
  · rw [h2, show d + 1 + d - 1 = d * 2 by omega, Nat.mul_mod_right]
  · rw [show c + d - 1 = c - 1 + d by omega, Nat.add_mod_right, Nat.mod_eq_of_lt (by omega)]

/-- A cell of the grid has an address of the bank. -/
theorem cellAddr_lt {c : Cfg} {x y : Nat} (hx : x < c.gridW) (hy : y < c.gridH) : cellAddr c x y < c.cellCount := by
  unfold cellAddr Cfg.cellCount
  calc y * c.gridW + x < (y + 1) * c.gridW := by rw [Nat.add_mul]; omega
    _ ≤ c.gridH * c.gridW := Nat.mul_le_mul_right _ hy
    _ = c.gridW * c.gridH := Nat.mul_comm _ _

/-- A cell is its address's remainder and quotient. -/
theorem cellAddr_mod {c : Cfg} {x : Nat} (y : Nat) (hx : x < c.gridW) : cellAddr c x y % c.gridW = x := by
  rw [cellAddr, Nat.add_comm, Nat.add_mul_mod_self_right, Nat.mod_eq_of_lt hx]

theorem cellAddr_div {c : Cfg} {x : Nat} (y : Nat) (hx : x < c.gridW) : cellAddr c x y / c.gridW = y := by
  rw [cellAddr, Nat.add_comm, Nat.add_mul_div_right _ _ (by omega), Nat.div_eq_of_lt hx, Nat.zero_add]

/-- Two cells of the grid with one address are one cell. -/
theorem cellAddr_inj {c : Cfg} {x y x' y' : Nat} (hx : x < c.gridW) (hx' : x' < c.gridW) (h : cellAddr c x y = cellAddr c x' y') :
    x = x' ∧ y = y' :=
  ⟨by rw [← cellAddr_mod y hx, h, cellAddr_mod y' hx'], by rw [← cellAddr_div y hx, h, cellAddr_div y' hx']⟩

/-- Every visit of a target in the grid is in the bank (R76, R233). -/
theorem visitAddr_lt {c : Cfg} {x y v : Nat} (hx : x < c.gridW) (hy : y < c.gridH) (hv : v ≤ 8) :
    visitAddr c x y v < c.cellCount :=
  cellAddr_lt (wrap_lt (by omega) (by omega)) (wrap_lt (by omega) (by omega))

/-- An entry the table has. -/
theorem romEntry_of_some {c : Cfg} {e : Nat} {en : Entry} (h : c.initTable[e]? = some en) : romEntry c e = en := by
  simp [romEntry, h]

/-- An entry below the table's length is one the table has. -/
theorem getElem?_romEntry {c : Cfg} {e : Nat} (h : e < c.initTable.length) : c.initTable[e]? = some (romEntry c e) := by
  simp [romEntry, h]

/-- The number of parameters of an entry of the table is at most PMAX (R49). -/
theorem params_le_maxParams {c : Cfg} {en : Entry} (h : en ∈ c.initTable) : en.params.length ≤ maxParams c := by
  have key : ∀ (l : List Entry) (m : Nat), m ≤ l.foldl (fun m e => max m e.params.length) m
      ∧ ∀ e ∈ l, e.params.length ≤ l.foldl (fun m e => max m e.params.length) m := by
    intro l
    induction l with
    | nil => simp
    | cons a l ih =>
      intro m
      obtain ⟨h1, h2⟩ := ih (max m a.params.length)
      simp only [List.foldl_cons, List.mem_cons, forall_eq_or_imp]
      exact ⟨by omega, by omega, h2⟩
  exact (key _ _).2 _ h

theorem Memory.wf_iff {n : Nat} {m : Memory} : Memory.wf n m = true ↔ m.cur.cells.length = n ∧ m.nxt.cells.length = n := by
  simp [Memory.wf]

end Sys2Proof.Machine
end

