-- ==== Sys2Proof/Laws/PerInstr.lean ====
section
/-! SUPPORT. The per-instruction family OpcodeRow: the encoded item of an instruction matches its own row of the opcode table and no
other row. The rows are copied from the table's mnemonic, format, mask and match; the encoder does not use them. -/

namespace Sys2Proof.Laws.OpcodeRow

/-- What a row asks of an item's bits: its mask and match, or a comparison of the command byte with CMD_NOP. -/
inductive Pattern where
  | bits (mask value : Nat)
  | cmdIsNop
  | cmdIsNotNop
  deriving DecidableEq, Repr

/-- A row of the opcode table. -/
structure Row where
  mnemonic : String
  format   : Format
  pattern  : Pattern
  deriving DecidableEq, Repr

/-- Whether the bits under the mask are the row's. -/
def fits (mask value : Nat) {w : Nat} (x : BitVec w) : Bool := x &&& BitVec.ofNat w mask == BitVec.ofNat w value

/-- Whether an item of a build with sentinel code nop matches a row. -/
def Row.admits (nop : Byte) (r : Row) : Code → Bool
  | .req w =>
    match r.format, r.pattern with
    | .req, .bits m v => fits m v w
    | _, _ => false
  | .init bytes =>
    match r.format, r.pattern, bytes with
    | .init, .cmdIsNop, [c] => c == nop
    | .init, .cmdIsNotNop, c :: _ => c != nop
    | _, _, _ => false
  | .peState c =>
    match r.format, r.pattern with
    | .peState, .bits m v => fits m v c
    | _, _ => false
  | .isState c =>
    match r.format, r.pattern with
    | .isState, .bits m v => fits m v c
    | _, _ => false
  | .spState c =>
    match r.format, r.pattern with
    | .spState, .bits m v => fits m v c
    | _, _ => false

/-- The 24 rows, in the table's order. -/
def table : List Row :=
  [⟨"TXN_CMD", .req, .bits 0x0100 0x0100⟩, ⟨"TXN_PARAM", .req, .bits 0x0100 0x0000⟩]
    ++ [⟨"INIT_NOP", .init, .cmdIsNop⟩, ⟨"INIT_CMD", .init, .cmdIsNotNop⟩]
    ++ [⟨"PE_IDLE", .peState, .bits 0b11 0b00⟩, ⟨"PE_TX", .peState, .bits 0b11 0b01⟩,
      ⟨"PE_RX", .peState, .bits 0b11 0b10⟩, ⟨"PE_EMIT", .peState, .bits 0b11 0b11⟩]
    ++ [⟨"IS_RESET", .isState, .bits 0b111 0b000⟩, ⟨"IS_WAIT", .isState, .bits 0b111 0b001⟩,
      ⟨"IS_NEXT", .isState, .bits 0b111 0b010⟩, ⟨"IS_CMD", .isState, .bits 0b111 0b011⟩,
      ⟨"IS_PARAM", .isState, .bits 0b111 0b100⟩, ⟨"IS_DONE", .isState, .bits 0b111 0b101⟩]
    ++ [⟨"SP_BRINGUP", .spState, .bits 0b11111 0b00000⟩, ⟨"SP_BEGIN_WRITE", .spState, .bits 0b11111 0b00100⟩,
      ⟨"SP_RENDER_ADDR", .spState, .bits 0b11111 0b01000⟩, ⟨"SP_RENDER_BYTE0", .spState, .bits 0b11111 0b01001⟩,
      ⟨"SP_RENDER_BYTE1", .spState, .bits 0b11111 0b01010⟩]
    ++ [⟨"SP_EVOLVE_ADDR", .spState, .bits 0b11111 0b01100⟩, ⟨"SP_EVOLVE_ACC", .spState, .bits 0b11111 0b01101⟩,
      ⟨"SP_EVOLVE_WRITE", .spState, .bits 0b11111 0b01110⟩, ⟨"SP_TRANSITION_LOAD", .spState, .bits 0b11111 0b10000⟩,
      ⟨"SP_TRANSITION_WRITE", .spState, .bits 0b11111 0b10001⟩]

/-- The row of an instruction. -/
def mnemonic : Instr → String
  | .txnCmd _ _ => "TXN_CMD"
  | .txnParam _ _ => "TXN_PARAM"
  | .initNop => "INIT_NOP"
  | .initCmd _ _ => "INIT_CMD"
  | .peIdle => "PE_IDLE"
  | .peTx => "PE_TX"
  | .peRx => "PE_RX"
  | .peEmit => "PE_EMIT"
  | .isReset => "IS_RESET"
  | .isWait => "IS_WAIT"
  | .isNext => "IS_NEXT"
  | .isCmd => "IS_CMD"
  | .isParam => "IS_PARAM"
  | .isDone => "IS_DONE"
  | .spBringup => "SP_BRINGUP"
  | .spBeginWrite => "SP_BEGIN_WRITE"
  | .spRenderAddr => "SP_RENDER_ADDR"
  | .spRenderByte0 => "SP_RENDER_BYTE0"
  | .spRenderByte1 => "SP_RENDER_BYTE1"
  | .spEvolveAddr => "SP_EVOLVE_ADDR"
  | .spEvolveAcc => "SP_EVOLVE_ACC"
  | .spEvolveWrite => "SP_EVOLVE_WRITE"
  | .spTransitionLoad => "SP_TRANSITION_LOAD"
  | .spTransitionWrite => "SP_TRANSITION_WRITE"

/-- The rows an item matches. -/
def rowsOf (nop : Byte) (c : Code) : List String := (table.filter fun r => r.admits nop c).map Row.mnemonic

/-- In every build, the item of a well-formed instruction matches one row of the opcode table, its own. -/
def Statement (i : Instr) : Prop := ∀ nop : Byte, i.wf nop = true → rowsOf nop (encode nop i) = [mnemonic i]

/-- Bit 8 of a packed request is its mode (R101). -/
theorem mode_bit (r : Req) : r.pack &&& 0x0100#13 = if r.mode then 0x0100#13 else 0x0000#13 := by
  obtain ⟨d, m, n⟩ := r
  apply BitVec.eq_of_getLsbD_eq
  intro i hi
  have h : (0x0100#13).getLsbD i = decide (i = 8) := by
    revert i
    decide
  simp only [BitVec.getLsbD_and, h, Req.pack, BitVec.getLsbD_append]
  by_cases h8 : i = 8
  · subst h8
    cases m <;> simp
  · cases m <;> simp [h8, h]

theorem txnCmd (d : Byte) (n : BitVec 4) : Statement (.txnCmd d n) := by
  intro nop _
  simp [rowsOf, encode, table, List.filter, Row.admits, fits, mode_bit, mnemonic]

theorem txnParam (d : Byte) (n : BitVec 4) : Statement (.txnParam d n) := by
  intro nop _
  simp [rowsOf, encode, table, List.filter, Row.admits, fits, mode_bit, mnemonic]

theorem initNop : Statement .initNop := by
  intro nop _
  simp [rowsOf, encode, table, List.filter, Row.admits, mnemonic]

theorem initCmd (c : Byte) (ps : List Byte) : Statement (.initCmd c ps) := by
  intro nop h
  have hn : (c != nop) = true := h
  have hc : (c == nop) = false := by simpa [Instr.wf] using h
  cases ps <;> simp [rowsOf, encode, table, List.filter, Row.admits, mnemonic, hc, hn]

theorem peIdle : Statement .peIdle := fun _ _ => rfl
theorem peTx : Statement .peTx := fun _ _ => rfl
theorem peRx : Statement .peRx := fun _ _ => rfl
theorem peEmit : Statement .peEmit := fun _ _ => rfl
theorem isReset : Statement .isReset := fun _ _ => rfl
theorem isWait : Statement .isWait := fun _ _ => rfl
theorem isNext : Statement .isNext := fun _ _ => rfl
theorem isCmd : Statement .isCmd := fun _ _ => rfl
theorem isParam : Statement .isParam := fun _ _ => rfl
theorem isDone : Statement .isDone := fun _ _ => rfl
theorem spBringup : Statement .spBringup := fun _ _ => rfl
theorem spBeginWrite : Statement .spBeginWrite := fun _ _ => rfl
theorem spRenderAddr : Statement .spRenderAddr := fun _ _ => rfl
theorem spRenderByte0 : Statement .spRenderByte0 := fun _ _ => rfl
theorem spRenderByte1 : Statement .spRenderByte1 := fun _ _ => rfl
theorem spEvolveAddr : Statement .spEvolveAddr := fun _ _ => rfl
theorem spEvolveAcc : Statement .spEvolveAcc := fun _ _ => rfl
theorem spEvolveWrite : Statement .spEvolveWrite := fun _ _ => rfl
theorem spTransitionLoad : Statement .spTransitionLoad := fun _ _ => rfl
theorem spTransitionWrite : Statement .spTransitionWrite := fun _ _ => rfl

end Sys2Proof.Laws.OpcodeRow
end

