-- ==== Sys2Proof/Laws/Pipeline.lean ====
section
/-! SUPPORT. The Simulation Pipeline's shared rules case by case: its code's two fields, the scans, the pixel's address and the sum. -/

namespace Sys2Proof.Machine

/-- sp_phase and sp_sub are the fields of the code (R100). -/
theorem spCode_fields {a x : BitVec 3} {b y : BitVec 2} (h : a ++ b = x ++ y) : a = x ∧ b = y := by
  revert a b x y
  decide

/-- The code's fields written out: a listed pair gives its code. -/
theorem spCode_of_fields {r : SpRegs} {x : BitVec 3} {y : BitVec 2} (ha : r.phase = x) (hb : r.sub = y) :
    r.phase ++ r.sub = x ++ y := by rw [ha, hb]

variable {c : Cfg} {r : SpRegs}

/-- The scan over cells inside a row (R238, R242). -/
theorem nextCellRule_next (after : BitVec 3) (h : r.cx + 1 < c.gridW) :
    nextCellRule c after r = { r with cx := r.cx + 1, sub := sub0 } := by
  simp [nextCellRule, show r.cx + 1 ≠ c.gridW by omega, cxWidth, bump_regWidth h]

/-- The scan over cells at the end of a row. -/
theorem nextCellRule_row (after : BitVec 3) (h : r.cx + 1 = c.gridW) (h' : r.cy + 1 < c.gridH) :
    nextCellRule c after r = { r with cx := 0, cy := r.cy + 1, sub := sub0 } := by
  simp [nextCellRule, h, show r.cy + 1 ≠ c.gridH by omega, cyWidth, bump_regWidth h']

/-- The scan over cells after the last cell. -/
theorem nextCellRule_last (after : BitVec 3) (h : r.cx + 1 = c.gridW) (h' : r.cy + 1 = c.gridH) :
    nextCellRule c after r = { r with cx := 0, cy := 0, phase := after, sub := sub0 } := by
  simp [nextCellRule, h, h']

/-- The scan over pixels inside a page (R206). -/
theorem nextPixelRule_next (h : r.col + 1 < c.dispCols) :
    nextPixelRule c r = { r with col := r.col + 1, sub := sub0 } := by
  simp [nextPixelRule, show r.col + 1 ≠ c.dispCols by omega, colWidth, bump_regWidth h]

/-- The scan over pixels at the end of a page. -/
theorem nextPixelRule_page (h : r.col + 1 = c.dispCols) (h' : r.pag + 1 < c.dispPages) :
    nextPixelRule c r = { r with col := 0, pag := r.pag + 1, sub := sub0 } := by
  simp [nextPixelRule, h, show r.pag + 1 ≠ c.dispPages by omega, pagWidth, bump_regWidth h']

/-- The scan over pixels after the last pixel. -/
theorem nextPixelRule_last (h : r.col + 1 = c.dispCols) (h' : r.pag + 1 = c.dispPages) :
    nextPixelRule c r
      = { r with col := 0, pag := 0, cx := 0, cy := 0, v := 0#4, n := 0#4, phase := spEVOLVE, sub := sub0 } := by
  simp [nextPixelRule, h, h']

/-- The sum of R237 does not wrap below 8. -/
theorem toNat_addBit {n : BitVec 4} (d : Bool) (h : n.toNat < 8) :
    (n + (BitVec.ofBool d).setWidth 4).toNat = n.toNat + d.toNat := by
  cases d
  · simp
  · rw [BitVec.toNat_add]
    simp
    omega

/-- A block's index on one axis is a cell's, and the wrap gives it back. -/
theorem wrap_block {w s col : Nat} (h : col < w * s) : wrap w (col / s + 1) = col / s ∧ col / s < w := by
  have hlt : col / s < w := Nat.div_lt_of_lt_mul (by rwa [Nat.mul_comm])
  exact ⟨wrap_succ hlt, hlt⟩

/-- The address of a pixel on the display is in the bank (R76). -/
theorem pixelAddr_lt {col pag : Nat} (h : col < c.dispCols) (h' : pag < c.dispPages) : pixelAddr c col pag < c.cellCount := by
  simp only [pixelAddr, wrap_block h, wrap_block h']
  exact cellAddr_lt (wrap_block h).2 (wrap_block h').2

end Sys2Proof.Machine
end

