-- ==== Sys2Proof/Tests/Slice0.lean ====
section
/-! SUPPORT. The model's own tests: what WellFormed refuses, the spec's words decoded, single steps against the spec's vectors
(95_test_vectors.md, V1 to V61), and for every obligation with hypotheses a concrete state that meets them. -/

namespace Sys2Proof.Tests

open Sys2Proof Sys2Proof.Machine Sys2Proof.Safety

/-! Small builds and states. -/

/-- The table of V20. -/
def table20 : List Entry := [⟨0xA1#8, []⟩, ⟨0x00#8, []⟩, ⟨0xB2#8, [0x01#8]⟩]

/-- A 3 by 1 build with the table and the times of V20. -/
def small : Cfg :=
  { gridW := 3, gridH := 1, scale := 2, fClkHz := 1, tReset := 2, tRelease := 3, tSetup := 1, tActive := 1
    initTable := table20, cmdNop := 0x00#8, cmdRamwr := 0x2C#8, seed := [true, false, false], aliveChar := '#' }

/-- The reset state of the 3 by 1 build, with the draws of nxt and of both read registers set to 0. -/
def s0 : State :=
  { cfg := small, pe := PeRegs.reset, is := IsRegs.reset, sp := SpRegs.reset
    mem := ⟨⟨[true, false, false], false⟩, ⟨[false, false, false], false⟩⟩, inputs := [], extReqs := [], tick := 0 }

/-- s0 with the IS in a state at an entry. -/
def atIs (st : BitVec 3) (e : Nat) : State := s0.setIs { state := st, cnt := 0, e := e, p := 0 }

/-- s0 after bring-up, with the SP in a phase and sub-state. -/
def atSp (ph : BitVec 3) (sub : BitVec 2) : State := (atIs isDONE 3).setSp { SpRegs.reset with phase := ph, sub := sub }

/-- s0 with the PE in a state of a byte with n response bytes to come. -/
def atPe (st : BitVec 2) (bit : BitVec 3) (ph : BitPhase) (n : BitVec 4) : State :=
  s0.setPe { PeRegs.reset with state := st, bit := bit, ph := ph, tx := 0xA5#8, rx := 0x49#8, rem := n }

/-- s with an external producer's request. -/
def offering (r : Req) (s : State) : State := { s with extReqs := [r] }

/-- s with the levels of miso and rst of the coming cycles. -/
def driven (l : List Input) (s : State) : State := { s with inputs := l }

/-- The next state, if there is one. -/
def next? : Host.Outcome State Fault Refusal → Option State
  | .next t => some t
  | .fault _ => none
  | .refused _ => none

/-- The refusal, if there is one. -/
def refusal? : Host.Outcome State Fault Refusal → Option Refusal
  | .refused r => some r
  | .next _ => none
  | .fault _ => none

/-- V4's miso: the bits of 0x93 in cycles 18, 20, ..., 32, and those of 0x30 in 35, 37, ..., 49. -/
def miso4 (k : Nat) : Bool :=
  if 18 ≤ k ∧ k ≤ 32 ∧ k % 2 = 0 then (0x93#8).getLsbD (7 - (k - 18) / 2)
  else if 35 ≤ k ∧ k ≤ 49 ∧ k % 2 = 1 then (0x30#8).getLsbD (7 - (k - 35) / 2)
  else false

/-! WellFormed: what R10 refuses, condition by condition (V60), and the INIT rows (R104). -/

theorem test_wf_small : small.wf = true := by decide
theorem test_wf_build : Config.build.wf = true := by decide
theorem test_wf_gridW : ({ small with gridW := 0, seed := [] } : Cfg).wf = false := by decide
theorem test_wf_gridH : ({ small with gridH := 0, seed := [] } : Cfg).wf = false := by decide
theorem test_wf_scale : ({ small with scale := 0 } : Cfg).wf = false := by decide
theorem test_wf_tReset : ({ small with tReset := 0 } : Cfg).wf = false := by decide
theorem test_wf_tRelease : ({ small with tRelease := 0 } : Cfg).wf = false := by decide
theorem test_wf_tSetup : ({ small with tSetup := 0 } : Cfg).wf = false := by decide
theorem test_wf_tActive : ({ small with tActive := 0 } : Cfg).wf = false := by decide
theorem test_wf_seed : ({ small with seed := [true, false] } : Cfg).wf = false := by decide
theorem test_wf_sentinel : ({ small with initTable := [⟨0x00#8, [0x01#8]⟩] } : Cfg).wf = false := by decide
theorem test_wf_initCmd : Instr.wf 0x00#8 (.initCmd 0x00#8 []) = false ∧ Instr.wf 0x00#8 (.initCmd 0xB2#8 [0x01#8]) = true := by decide
theorem test_wf_memory : Memory.wf 3 s0.mem = true ∧ Memory.wf 4 s0.mem = false := by decide

/-! Decode: a word of every row, written out from R101, R104 and R112. -/

/-- The REQ table of 95_test_vectors.md. -/
theorem test_decode_req :
    decode 0x00#8 (.req 0x01A5#13) = .ok (.txnCmd 0xA5#8 0#4) ∧ decode 0x00#8 (.req 0x00FF#13) = .ok (.txnParam 0xFF#8 0#4)
      ∧ decode 0x00#8 (.req 0x0704#13) = .ok (.txnCmd 0x04#8 3#4) ∧ decode 0x00#8 (.req 0x1E00#13) = .ok (.txnParam 0x00#8 15#4)
      ∧ decode 0x00#8 (.req 0x1FFF#13) = .ok (.txnCmd 0xFF#8 15#4) := by decide

/-- V11, and an item with no command byte. -/
theorem test_decode_init :
    decode 0x00#8 (.init [0x00#8]) = .ok .initNop ∧ decode 0x00#8 (.init [0x01#8]) = .ok (.initCmd 0x01#8 [])
      ∧ decode 0x00#8 (.init [0xB2#8, 0x01#8]) = .ok (.initCmd 0xB2#8 [0x01#8])
      ∧ decode 0x00#8 (.init [0x00#8, 0x01#8]) = .error .sentinelWithParams ∧ decode 0x00#8 (.init []) = .error .emptyEntry := by decide

theorem test_decode_peState :
    decode 0x00#8 (.peState 0b00#2) = .ok .peIdle ∧ decode 0x00#8 (.peState 0b01#2) = .ok .peTx
      ∧ decode 0x00#8 (.peState 0b10#2) = .ok .peRx ∧ decode 0x00#8 (.peState 0b11#2) = .ok .peEmit := by decide

theorem test_decode_isState :
    decode 0x00#8 (.isState 0b000#3) = .ok .isReset ∧ decode 0x00#8 (.isState 0b001#3) = .ok .isWait
      ∧ decode 0x00#8 (.isState 0b010#3) = .ok .isNext ∧ decode 0x00#8 (.isState 0b011#3) = .ok .isCmd
      ∧ decode 0x00#8 (.isState 0b100#3) = .ok .isParam ∧ decode 0x00#8 (.isState 0b101#3) = .ok .isDone
      ∧ decode 0x00#8 (.isState 0b110#3) = .error .unreachableIsState
      ∧ decode 0x00#8 (.isState 0b111#3) = .error .unreachableIsState := by decide

theorem test_decode_spState_render :
    decode 0x00#8 (.spState 0b00000#5) = .ok .spBringup ∧ decode 0x00#8 (.spState 0b00100#5) = .ok .spBeginWrite
      ∧ decode 0x00#8 (.spState 0b01000#5) = .ok .spRenderAddr ∧ decode 0x00#8 (.spState 0b01001#5) = .ok .spRenderByte0
      ∧ decode 0x00#8 (.spState 0b01010#5) = .ok .spRenderByte1 := by decide

theorem test_decode_spState_evolve :
    decode 0x00#8 (.spState 0b01100#5) = .ok .spEvolveAddr ∧ decode 0x00#8 (.spState 0b01101#5) = .ok .spEvolveAcc
      ∧ decode 0x00#8 (.spState 0b01110#5) = .ok .spEvolveWrite ∧ decode 0x00#8 (.spState 0b10000#5) = .ok .spTransitionLoad
      ∧ decode 0x00#8 (.spState 0b10001#5) = .ok .spTransitionWrite := by decide

/-- R113: exactly 10 of the 32 SPSTATE codes are listed. -/
theorem test_decode_spState_count : ((List.range 32).filter fun k => (decodeSpState (BitVec.ofNat 5 k)).isOk).length = 10 := by decide

/-- The table's words in whole bytes (log entry 9). -/
theorem test_decodeTableWord :
    decodeTableWord 16 0x0100 = some (.txnCmd 0x00#8 0#4) ∧ decodeTableWord 16 0x0000 = some (.txnParam 0x00#8 0#4)
      ∧ decodeTableWord 8 0x03 = some .peEmit ∧ decodeTableWord 8 0x05 = some .isDone ∧ decodeTableWord 8 0x0E = some .spEvolveWrite
      ∧ decodeTableWord 8 0xB2 = some (.initCmd 0xB2#8 []) ∧ decodeTableWord 13 0x2000 = none := by decide

/-! The PE's rows. -/

/-- V1, cycle 0: the acceptance of CMD 0xA5. -/
theorem test_peIdle_accepts :
    (next? (exec .peIdle (offering ⟨0xA5#8, true, 0#4⟩ s0))).map (·.pe)
      = some { state := 0b01#2, bit := 7#3, ph := .setup, pcnt := 0, tx := 0xA5#8, rx := 0x00#8, rem := 0#4, dc := true } := by decide

/-- R131: nothing is offered. -/
theorem test_peIdle_holds : (next? (exec .peIdle s0)).map (·.pe) = some PeRegs.reset := by decide

/-- V1, cycle 16: the last pulse's end clears dc and goes back to IDLE. -/
theorem test_peTx_lastBit :
    (next? (exec .peTx (atPe 0b01#2 0#3 .active 0#4))).map (fun t => (t.pe.state, t.pe.dc, t.pe.ph))
      = some (0b00#2, false, BitPhase.setup) := by decide

/-- V6: with T_ACTIVE = 3 the second cycle of a pulse is not its last. -/
theorem test_peTx_longPulse :
    (next? (exec .peTx { (atPe 0b01#2 7#3 .active 0#4).setPe { (atPe 0b01#2 7#3 .active 0#4).pe with pcnt := 1 } with
      cfg := { small with tSetup := 2, tActive := 3 } })).map (fun t => (t.pe.bit, t.pe.pcnt)) = some (7#3, 2) := by decide

/-- V4, cycle 32: the eighth sample of 0x93 after 1,0,0,1,0,0,1. -/
theorem test_peRx_lastBit :
    (next? (exec .peRx (driven [⟨true, false⟩] (atPe 0b10#2 0#3 .active 2#4)))).map (fun t => (t.pe.state, t.pe.rx))
      = some (0b11#2, 0x93#8) := by decide

/-- V4, cycles 33 and 50: the emit cycles of the first and of the last byte. -/
theorem test_peEmit :
    (next? (exec .peEmit (atPe 0b11#2 0#3 .setup 2#4))).map (fun t => (t.pe.state, t.pe.rem, t.pe.bit)) = some (0b10#2, 1#4, 7#3)
      ∧ (next? (exec .peEmit (atPe 0b11#2 0#3 .setup 1#4))).map (fun t => (t.pe.state, t.pe.rem)) = some (0b00#2, 0#4) := by decide

/-- V1, cycles 1 and 2: mosi is bit 7 in the setup phase and the pulse, and sclk rises in the pulse. -/
theorem test_lines_request :
    ((atPe 0b01#2 7#3 .setup 0#4).mosi, (atPe 0b01#2 7#3 .setup 0#4).sclk, (atPe 0b01#2 6#3 .active 0#4).mosi,
      (atPe 0b01#2 6#3 .active 0#4).sclk) = (true, false, false, true) := by decide

/-! The requests as whole operations. -/

/-- V4: CMD 0x04 rd 2 is back in IDLE at cycle 51 and leaves the second byte, 0x30, in pe_rx. -/
theorem test_txnCmd_read :
    (next? (exec (.txnCmd 0x04#8 2#4) (driven ((List.range 51).map fun k => ⟨miso4 k, false⟩) s0))).map
      (fun t => (t.tick, t.pe.state, t.pe.rx, t.pe.dc)) = some (51, 0b00#2, 0x30#8, false) := by decide

/-- V2: PARAM 0xFF takes 17 cycles. -/
theorem test_txnParam :
    (next? (exec (.txnParam 0xFF#8 0#4) s0)).map (fun t => (t.tick, t.pe.state, t.pe.tx)) = some (17, 0b00#2, 0xFF#8) := by decide

/-- V20: CMD 0xB2 and PARAM 0x01, accepted 17 cycles apart; with the IS_NEXT cycle that is 19 cycles, and the IS is at the next entry. -/
theorem test_initCmd :
    (next? (exec (.initCmd 0xB2#8 [0x01#8]) (atIs isNEXT 2))).map (fun t => (t.tick, t.pe.tx, t.pe.dc, t.is.state, t.is.e))
      = some (19, 0x01#8, false, 0b010#3, 3) := by decide

/-- V20: the sentinel at entry 1 takes its IS_NEXT cycle 7 and the wait of cycles 8 to 10. -/
theorem test_initNop :
    (next? (exec .initNop (atIs isNEXT 1))).map (fun t => (t.tick, t.pe.state, t.is.state, t.is.e))
      = some (4, 0b00#2, 0b010#3, 2) := by decide

/-! The IS's rows (V20). -/

theorem test_isReset :
    (next? (exec .isReset s0)).map (·.is) = some { state := 0b000#3, cnt := 1, e := 0, p := 0 }
      ∧ (next? (exec .isReset (s0.setIs { s0.is with cnt := 1 }))).map (·.is) = some { state := 0b001#3, cnt := 0, e := 0, p := 0 } := by
  decide

theorem test_isWait :
    (next? (exec .isWait ((atIs isWAIT 0).setIs { (atIs isWAIT 0).is with cnt := 2 }))).map (·.is)
      = some { state := 0b010#3, cnt := 0, e := 0, p := 0 } := by decide

/-- Entry 1 is the sentinel; entry 3 is past the table. -/
theorem test_isNext :
    (next? (exec .isNext (atIs isNEXT 1))).map (·.is) = some { state := 0b001#3, cnt := 0, e := 2, p := 0 }
      ∧ (next? (exec .isNext (atIs isNEXT 3))).map (·.is) = some { state := 0b101#3, cnt := 0, e := 3, p := 0 } := by decide

/-- Entry 0 has no parameter and entry 2 has one; both commands fire. -/
theorem test_isCmd_fires :
    (next? (exec .isCmd (atIs isCMD 0))).map (·.is) = some { state := 0b010#3, cnt := 0, e := 1, p := 0 }
      ∧ (next? (exec .isCmd (atIs isCMD 2))).map (·.is) = some { state := 0b100#3, cnt := 0, e := 2, p := 0 } := by decide

/-- V20, cycles 12 to 22: the command is held while the PE is busy. -/
theorem test_isCmd_holds :
    (next? (exec .isCmd ((atIs isCMD 2).setPe (atPe 0b01#2 3#3 .setup 0#4).pe))).map (·.is) = some (atIs isCMD 2).is := by decide

theorem test_isParam_last :
    (next? (exec .isParam (atIs isPARAM 2))).map (·.is) = some { state := 0b010#3, cnt := 0, e := 3, p := 0 } := by decide

theorem test_isDone : (next? (step (atIs isDONE 3))).map (·.is) = some (atIs isDONE 3).is := by decide

/-! The SP's rows. -/

/-- R202: the SP waits for done. -/
theorem test_spBringup :
    (next? (exec .spBringup s0)).map (·.sp.phase) = some 0b000#3
      ∧ (next? (exec .spBringup (atIs isDONE 3))).map (·.sp.phase) = some 0b001#3 := by decide

/-- R203: CMD 0x2C is offered and fires. -/
theorem test_spBeginWrite :
    (atSp spBEGIN sub0).port = some ⟨0x2C#8, true, 0#4⟩
      ∧ (next? (exec .spBeginWrite (atSp spBEGIN sub0))).map (fun t => (t.sp.phase, t.sp.sub)) = some (0b010#3, 0b00#2) := by decide

/-- V30: which address a pixel reads, W = 20, H = 15, S = 16. -/
theorem test_pixelAddr :
    ([(0, 0), (15, 15), (16, 0), (0, 16), (160, 120), (319, 239)].map fun q =>
      pixelAddr { small with gridW := 20, gridH := 15, scale := 16 } q.1 q.2) = [0, 0, 1, 20, 150, 299] := by decide

/-- R204: with S = 2 pixel (1, 1) shows cell 0, which is alive. -/
theorem test_spRenderAddr :
    (next? (exec .spRenderAddr ((atSp spRENDER sub0).setSp { (atSp spRENDER sub0).sp with col := 1, pag := 1 }))).map
      (fun t => (t.mem.cur.rdata, t.sp.sub)) = some (true, 0b01#2) := by decide

/-- V31: a live cell offers PARAM 0xFF; a dead one PARAM 0x00. -/
theorem test_spRenderByte0 :
    ((atSp spRENDER sub1).setMem ⟨⟨[true, false, false], true⟩, s0.mem.nxt⟩).port = some ⟨0xFF#8, false, 0#4⟩
      ∧ (atSp spRENDER sub1).port = some ⟨0x00#8, false, 0#4⟩
      ∧ (next? (exec .spRenderByte0 (atSp spRENDER sub1))).map (·.sp.sub) = some 0b10#2 := by decide

/-- R206: the last pixel of the last page, (5, 1) here, enters EVOLVE; the last of a page goes to the next page. -/
theorem test_spRenderByte1 :
    (next? (exec .spRenderByte1 ((atSp spRENDER sub2).setSp { (atSp spRENDER sub2).sp with col := 5, pag := 1 }))).map
      (fun t => (t.sp.phase, t.sp.sub, t.sp.col, t.sp.pag)) = some (0b011#3, 0b00#2, 0, 0)
      ∧ (next? (exec .spRenderByte1 ((atSp spRENDER sub2).setSp { (atSp spRENDER sub2).sp with col := 5 }))).map
        (fun t => (t.sp.phase, t.sp.sub, t.sp.col, t.sp.pag)) = some (0b010#3, 0b00#2, 0, 1) := by decide

/-- V40. -/
theorem test_wrap :
    ([0, 1, 2, 20, 21].map (wrap 20), [0, 1, 2, 15, 16].map (wrap 15), [0, 1, 2, 3].map (wrap 2), [0, 1, 2].map (wrap 1))
      = ([19, 0, 1, 19, 0], [14, 0, 1, 14, 0], [1, 0, 1, 0], [0, 0, 0]) := by decide

/-- V41: the nine visits of (0, 0), of (19, 14) and of (5, 7), W = 20, H = 15. -/
theorem test_visitAddr :
    ([(0, 0), (19, 14), (5, 7)].map fun q =>
      (List.range 9).map fun v => visitAddr { small with gridW := 20, gridH := 15 } q.1 q.2 v)
      = [[299, 280, 281, 19, 0, 1, 39, 20, 21], [278, 279, 260, 298, 299, 280, 18, 19, 0],
        [124, 125, 126, 144, 145, 146, 164, 165, 166]] := by decide

/-- R236: visit 0 of cell 1 of a 3 by 1 grid is cell 0, which is alive. -/
theorem test_spEvolveAddr :
    (next? (exec .spEvolveAddr ((atSp spEVOLVE sub0).setSp { (atSp spEVOLVE sub0).sp with cx := 1 }))).map
      (fun t => (t.mem.cur.rdata, t.sp.sub)) = some (true, 0b01#2) := by decide

/-- R237: a live neighbour adds one; the centre goes to sp_alive and not to sp_n. -/
theorem test_spEvolveAcc :
    (next? (exec .spEvolveAcc (((atSp spEVOLVE sub1).setSp { (atSp spEVOLVE sub1).sp with v := 8#4, n := 5#4 }).setMem
      ⟨⟨[true, false, false], true⟩, s0.mem.nxt⟩))).map (fun t => (t.sp.n, t.sp.v, t.sp.sub)) = some (6#4, 8#4, 0b10#2)
      ∧ (next? (exec .spEvolveAcc (((atSp spEVOLVE sub1).setSp { (atSp spEVOLVE sub1).sp with v := 4#4, n := 3#4 }).setMem
        ⟨⟨[true, false, false], true⟩, s0.mem.nxt⟩))).map (fun t => (t.sp.n, t.sp.v, t.sp.alive)) = some (3#4, 5#4, true) := by decide

/-- R238's example: sp_alive = 0 and sp_n = 3 write 1; at the last cell the SP goes to TRANSITION. -/
theorem test_spEvolveWrite :
    (next? (exec .spEvolveWrite ((atSp spEVOLVE sub2).setSp { (atSp spEVOLVE sub2).sp with cx := 2, v := 8#4, n := 3#4 }))).map
      (fun t => (t.mem.nxt.cells, t.sp.phase, t.sp.cx, t.sp.n, t.sp.v)) = some ([false, false, true], 0b100#3, 0, 0#4, 0#4) := by decide

/-- V43. -/
theorem test_life :
    ((List.range 9).map (life true), (List.range 9).map (life false))
      = ([false, false, true, true, false, false, false, false, false], [false, false, false, true, false, false, false, false, false]) := by
  decide

/-- V44 to V47: one generation of small grids. -/
theorem test_lifeGrid :
    lifeGrid { small with gridW := 1 } [true] = [false]
      ∧ lifeGrid { small with gridW := 2, gridH := 2 } [true, true, false, false] = [true, true, false, false]
      ∧ lifeGrid { small with gridW := 2, gridH := 2 } [true, true, true, false] = [false, false, false, false]
      ∧ lifeGrid { small with gridW := 2 } [true, false] = [true, false]
      ∧ lifeGrid small [true, false, false] = [true, true, true] ∧ lifeGrid small [true, true, false] = [false, false, false] := by
  decide

/-- V49: LOAD reads the cell of nxt. -/
theorem test_spTransitionLoad :
    (next? (exec .spTransitionLoad ((atSp spTRANSITION sub0).setMem ⟨s0.mem.cur, ⟨[true, true, true], false⟩⟩))).map
      (fun t => (t.mem.nxt.rdata, t.mem.nxt.cells, t.sp.sub)) = some (true, [true, true, true], 0b01#2) := by decide

/-- V49: WRITE stores nxt.rdata into cur; at the last cell the SP goes to BEGIN. -/
theorem test_spTransitionWrite :
    (next? (exec .spTransitionWrite (((atSp spTRANSITION sub1).setSp { (atSp spTRANSITION sub1).sp with cx := 2 }).setMem
      ⟨s0.mem.cur, ⟨[true, true, true], true⟩⟩))).map (fun t => (t.mem.cur.cells, t.sp.phase, t.sp.cx))
      = some ([true, false, true], 0b001#3, 0) := by decide

/-! The step, reset and the refusals. -/

/-- V60: no machine for an ill-formed build. -/
theorem test_refuses_cfg : refusal? (step { s0 with cfg := { small with tSetup := 0 } }) = some .illFormedCfg := by decide

/-- V61: is_state 110, sp_phase 101, and sp_phase 001 with sp_sub 01. -/
theorem test_refuses_codes :
    refusal? (step (atIs 0b110#3 0)) = some .unreachableState ∧ refusal? (step (atSp 0b101#3 sub0)) = some .unreachableState
      ∧ refusal? (step (atSp spBEGIN sub1)) = some .unreachableState := by decide

/-- R290: rst abandons a byte on the line, reloads cur and starts over. -/
theorem test_rst :
    (next? (step (driven [⟨false, true⟩] ((atPe 0b01#2 3#3 .active 0#4).setMem ⟨⟨[false, true, true], true⟩, s0.mem.nxt⟩)))).map
      (fun t => (t.pe, t.is, t.sp, t.mem.cur.cells, t.inputs)) = some (PeRegs.reset, IsRegs.reset, SpRegs.reset, small.seed, []) := by
  decide

/-- R115, R293: a seed text. -/
theorem test_seedOfText :
    seedOfText '#' [['#', '.'], ['.', '#'], ['x', '.']] = [true, false, false, true, false, false] := by decide

/-! Witnesses: for every obligation with hypotheses, concrete values that meet them together, clause by clause and at the edges. -/

/-- Whether a step answers a next state. -/
def runs (o : Host.Outcome State Fault Refusal) : Bool := (next? o).isSome

/-- An external producer's read of n bytes, offered to the idle PE. -/
def reading (n : BitVec 4) : State := offering ⟨0x04#8, true, n⟩ s0

/-- s0 during bring-up at BEGIN of a 1 by 1 build with an empty table and T = 1, as V21 and V33 use it. -/
def one : Cfg :=
  { small with gridW := 1, scale := 1, tReset := 1, tRelease := 1, initTable := [], seed := [true] }

/-- A state of the 1 by 1 build after bring-up, with the SP in a phase and sub-state. -/
def oneAt (ph : BitVec 3) (sub : BitVec 2) : State :=
  { atSp ph sub with cfg := one, is := { state := isDONE, cnt := 0, e := 0, p := 0 }, mem := ⟨⟨[true], false⟩, ⟨[false], false⟩⟩ }

theorem inv_s0 : Inv s0 := ⟨by decide, by decide, by decide, by decide, by decide, by decide⟩
theorem inv_reading (n : BitVec 4) : Inv (reading n) := inv_s0
theorem inv_sending : Inv (atPe peTX 7#3 .setup 0#4) := ⟨by decide, by decide, by decide, by decide, by decide, by decide⟩
theorem inv_next1 : Inv (atIs isNEXT 1) := ⟨by decide, by decide, by decide, by decide, by decide, by decide⟩
theorem inv_next2 : Inv (atIs isNEXT 2) := ⟨by decide, by decide, by decide, by decide, by decide, by decide⟩
theorem inv_cmd0 : Inv (atIs isCMD 0) := ⟨by decide, by decide, by decide, by decide, by decide, by decide⟩
theorem inv_param2 : Inv (atIs isPARAM 2) := ⟨by decide, by decide, by decide, by decide, by decide, by decide⟩
theorem inv_begin : Inv (oneAt spBEGIN sub0) := ⟨by decide, by decide, by decide, by decide, by decide, by decide⟩
theorem inv_render : Inv (oneAt spRENDER sub2) := ⟨by decide, by decide, by decide, by decide, by decide, by decide⟩
theorem inv_evolve : Inv (oneAt spEVOLVE sub0) := ⟨by decide, by decide, by decide, by decide, by decide, by decide⟩
theorem inv_load : Inv (oneAt spTRANSITION sub0) := ⟨by decide, by decide, by decide, by decide, by decide, by decide⟩
theorem inv_copy : Inv (oneAt spTRANSITION sub1) := ⟨by decide, by decide, by decide, by decide, by decide, by decide⟩

theorem witness_InvariantHoldsAfterReset : small.wf = true ∧ one.wf = true := by decide

theorem witness_RstResetsAndNothingElseDoes :
    (small.wf = true ∧ (driven [⟨false, true⟩] s0).rst = true)
      ∧ (runs (step (atIs isWAIT 0)) = true ∧ (atIs isWAIT 0).rst = false ∧ (atIs isWAIT 0).is.state ≠ isRESET)
      ∧ (runs (step (atSp spBEGIN sub0)) = true ∧ (atSp spBEGIN sub0).rst = false ∧ (atSp spBEGIN sub0).sp.phase ≠ spBRINGUP) := by
  decide

theorem witness_IllFormedCfgHasNoMachine :
    ({ s0 with cfg := { small with tActive := 0 } } : State).cfg.wf = false ∧ (⟨0x00#8, []⟩ : Entry) ∈ small.initTable := by decide

theorem witness_ReservedEncodingsAreRefused :
    ((⟨0x00#8, [0x01#8]⟩ : Entry) ∈ ({ small with initTable := [⟨0x00#8, [0x01#8]⟩] } : Cfg).initTable)
      ∧ ((atIs 0b110#3 0).cfg.wf = true ∧ (atIs 0b110#3 0).rst = false ∧ (atIs 0b111#3 0).is.state = 0b111#3)
      ∧ ((atSp 0b111#3 0b11#2).cfg.wf = true ∧ (atSp 0b111#3 0b11#2).rst = false
        ∧ (atSp spTRANSITION sub2).sp.sub = sub2 ∧ (atSp spBRINGUP sub1).sp.sub = sub1) := by decide

theorem witness_DecodeOfEncodeIsTheInstruction :
    Instr.wf 0x00#8 (.initCmd 0xFF#8 [0x00#8]) = true ∧ Instr.wf 0x00#8 (.txnParam 0xFF#8 15#4) = true := by decide

theorem witness_EncodeOfDecodeIsTheItem :
    decode 0x00#8 (.req 0x1FFF#13) = .ok (.txnCmd 0xFF#8 15#4) ∧ decode 0x29#8 (.init [0x29#8]) = .ok .initNop
      ∧ decode 0x29#8 (.init [0x00#8, 0x29#8]) = .ok (.initCmd 0x00#8 [0x29#8]) := by decide

theorem witness_ReqBit8SelectsTheOperation : (0x0100#13).getLsbD 8 = true ∧ (0x1EFF#13).getLsbD 8 = false := by decide

theorem witness_PeOutputsAreMoore :
    ((atPe peTX 7#3 .setup 0#4).pe.state = peTX ∧ s0.pe.state ≠ peTX ∧ (atPe peEMIT 0#3 .setup 1#4).pe.state = peEMIT
      ∧ s0.pe.state ≠ peEMIT)
      ∧ (runs (step (atPe peTX 7#3 .setup 0#4)) = true ∧ (atPe peTX 7#3 .setup 0#4).rst = false ∧ 1 ≤ small.tActive
        ∧ ¬((atPe peTX 7#3 .setup 0#4).pe.ph = .active ∧ (atPe peTX 7#3 .setup 0#4).pe.pcnt + 1 = small.tActive)) := by decide

theorem witness_IsOutputsAreMoore :
    ((atIs isCMD 0).is.state = isCMD ∧ small.initTable[(atIs isCMD 0).is.e]? = some ⟨0xA1#8, []⟩)
      ∧ ((atIs isPARAM 2).is.state = isPARAM ∧ small.initTable[(atIs isPARAM 2).is.e]? = some ⟨0xB2#8, [0x01#8]⟩
        ∧ ([0x01#8] : List Byte)[(atIs isPARAM 2).is.p]? = some 0x01#8)
      ∧ (s0.is.state ≠ isCMD ∧ s0.is.state ≠ isPARAM) := by decide

theorem witness_SpOutputsAreMoore :
    (atSp spBEGIN sub0).sp.phase = spBEGIN ∧ ((atSp spRENDER sub1).sp.phase = spRENDER ∧ (atSp spRENDER sub1).sp.sub = sub1)
      ∧ (atSp spRENDER sub2).sp.sub = sub2 ∧ (atSp spRENDER sub0).spReqValid = false := by decide

theorem witness_DoneSelectsTheProducer :
    (s0.extReqs = [] ∧ s0.done = false) ∧ ((atSp spBEGIN sub0).extReqs = [] ∧ (atSp spBEGIN sub0).done = true) := by decide

theorem witness_PeIdleAcceptsOrHolds : (reading 15#4).reqValid = true ∧ (atIs isCMD 0).reqValid = true ∧ s0.reqValid = false := by decide

/-- With T_SETUP = 2 and T_ACTIVE = 3 (V6) every clause has its own value of pe_pcnt. -/
theorem witness_PeTxSendsABitSlot :
    (1 + 1 = ({ small with tSetup := 2, tActive := 3 } : Cfg).tSetup ∧ 0 + 1 < ({ small with tSetup := 2, tActive := 3 } : Cfg).tSetup
      ∧ 1 + 1 < ({ small with tSetup := 2, tActive := 3 } : Cfg).tActive ∧ 2 + 1 = ({ small with tSetup := 2, tActive := 3 } : Cfg).tActive)
      ∧ ((atPe peTX 7#3 .setup 0#4).pe.ph = .setup ∧ (atPe peTX 7#3 .setup 0#4).pe.pcnt + 1 = small.tSetup)
      ∧ ((atPe peTX 1#3 .active 0#4).pe.ph = .active ∧ (atPe peTX 1#3 .active 0#4).pe.pcnt + 1 = small.tActive
        ∧ (atPe peTX 1#3 .active 0#4).pe.bit ≠ 0#3)
      ∧ ((atPe peTX 0#3 .active 0#4).pe.bit = 0#3 ∧ (atPe peTX 0#3 .active 0#4).pe.rem = 0#4 ∧ (atPe peTX 0#3 .active 1#4).pe.rem ≠ 0#4) := by
  decide

theorem witness_PeRxReceivesABitSlot :
    ((atPe peRX 7#3 .setup 1#4).pe.ph = .setup ∧ (atPe peRX 7#3 .setup 1#4).pe.pcnt + 1 = small.tSetup)
      ∧ ((atPe peRX 1#3 .active 1#4).pe.ph = .active ∧ (atPe peRX 1#3 .active 1#4).pe.pcnt + 1 = small.tActive
        ∧ (atPe peRX 1#3 .active 1#4).pe.bit ≠ 0#3 ∧ (atPe peRX 0#3 .active 1#4).pe.bit = 0#3)
      ∧ ((atPe peRX 7#3 .setup 1#4).pe.pcnt + 1 < ({ small with tSetup := 2 } : Cfg).tSetup
        ∧ (atPe peRX 7#3 .active 1#4).pe.pcnt + 1 < ({ small with tActive := 2 } : Cfg).tActive) := by decide

theorem witness_PeEmitLastsOneCycle :
    ((atPe peEMIT 0#3 .setup 1#4).pe.rem = 1#4 ∧ (atPe peEMIT 0#3 .setup 15#4).pe.rem ≠ 1#4)
      ∧ ((atPe peEMIT 0#3 .setup 1#4).pe.state = peEMIT ∧ PeOk small (atPe peEMIT 0#3 .setup 1#4).pe) := by decide

theorem witness_IsResetAndIsWaitCount :
    (s0.is.cnt + 1 < small.tReset ∧ (s0.setIs { s0.is with cnt := 1 }).is.cnt + 1 = small.tReset)
      ∧ ((s0.setIs { s0.is with cnt := 1 }).is.cnt + 1 < small.tRelease ∧ (s0.setIs { s0.is with cnt := 2 }).is.cnt + 1 = small.tRelease)
      ∧ (s0.is.state = isRESET ∧ (atIs isWAIT 0).is.state = isWAIT) := by decide

theorem witness_IsNextDispatchesTheEntry :
    ((atIs isNEXT 3).is.e = small.initTable.length)
      ∧ (small.initTable[(atIs isNEXT 1).is.e]? = some ⟨0x00#8, []⟩ ∧ (0x00#8 : Byte) = small.cmdNop)
      ∧ (small.initTable[(atIs isNEXT 2).is.e]? = some ⟨0xB2#8, [0x01#8]⟩ ∧ (0xB2#8 : Byte) ≠ small.cmdNop) := by decide

/-- The IS at parameter 0 of an entry with two. -/
def twoParams : State :=
  { atIs isPARAM 0 with cfg := { small with initTable := [⟨0xB2#8, [0x01#8, 0x02#8]⟩] } }

theorem witness_IsCmdAndIsParamHoldUntilFire :
    (s0.isFire = false)
      ∧ ((atIs isCMD 0).isFire = true ∧ small.initTable[(atIs isCMD 0).is.e]? = some ⟨0xA1#8, []⟩)
      ∧ ((atIs isCMD 2).isFire = true ∧ small.initTable[(atIs isCMD 2).is.e]? = some ⟨0xB2#8, [0x01#8]⟩)
      ∧ ((atIs isPARAM 2).isFire = true ∧ (atIs isPARAM 2).is.p + 1 = ([0x01#8] : List Byte).length)
      ∧ (twoParams.isFire = true ∧ twoParams.cfg.initTable[twoParams.is.e]? = some ⟨0xB2#8, [0x01#8, 0x02#8]⟩
        ∧ twoParams.is.p + 1 < ([0x01#8, 0x02#8] : List Byte).length) := by decide

theorem witness_IsDoneStaysUntilRst :
    (atIs isDONE 3).is.state = isDONE ∧ runs (step (atIs isDONE 3)) = true ∧ (atIs isDONE 3).rst = false ∧ (atIs isDONE 3).done = true := by
  decide

theorem witness_BringupAndBeginWrite :
    ((atIs isDONE 3).done = true ∧ s0.done = false ∧ s0.sp.phase = spBRINGUP ∧ s0.extReqs = [])
      ∧ ((atSp spBEGIN sub0).sp.phase = spBEGIN ∧ (atSp spBEGIN sub0).spFire = true ∧ s0.spFire = false) := by decide

/-- The last pixel of the display. -/
theorem witness_RenderAddrReadsThePixelsCell :
    let s := (atSp spRENDER sub0).setSp { (atSp spRENDER sub0).sp with col := 5, pag := 1 }
    s.cfg.wf = true ∧ Memory.wf s.cfg.cellCount s.mem = true ∧ s.sp.col < s.cfg.dispCols ∧ s.sp.pag < s.cfg.dispPages
      ∧ s.sp.phase = spRENDER ∧ s.sp.sub = sub0 := by decide

theorem witness_RenderBytesOfferThePixel :
    let s := fun col pag => (atSp spRENDER sub2).setSp { (atSp spRENDER sub2).sp with col := col, pag := pag }
    ((s 4 1).spFire = true ∧ (s 4 1).sp.col + 1 < small.dispCols)
      ∧ ((s 5 0).spFire = true ∧ (s 5 0).sp.col + 1 = small.dispCols ∧ (s 5 0).sp.pag + 1 < small.dispPages)
      ∧ ((s 5 1).spFire = true ∧ (s 5 1).sp.col + 1 = small.dispCols ∧ (s 5 1).sp.pag + 1 = small.dispPages)
      ∧ (s0.spFire = false ∧ (atSp spRENDER sub1).sp.phase = spRENDER ∧ (atSp spRENDER sub1).sp.sub = sub1) := by decide

/-- The last visit of the last cell. -/
theorem witness_EvolveAddrReadsTheVisit :
    let s := (atSp spEVOLVE sub0).setSp { (atSp spEVOLVE sub0).sp with cx := 2, v := 8#4 }
    s.cfg.wf = true ∧ Memory.wf s.cfg.cellCount s.mem = true ∧ s.sp.cx < s.cfg.gridW ∧ s.sp.cy < s.cfg.gridH ∧ s.sp.v.toNat ≤ 8
      ∧ s.sp.phase = spEVOLVE := by decide

theorem witness_EvolveAccTakesTheVisit :
    let s := fun v n => (atSp spEVOLVE sub1).setSp { (atSp spEVOLVE sub1).sp with v := v, n := n }
    ((s 4#4 4#4).sp.v = 4#4) ∧ ((s 7#4 6#4).sp.v ≠ 4#4 ∧ (s 7#4 6#4).sp.v ≠ 8#4 ∧ (s 7#4 6#4).sp.n.toNat < 8)
      ∧ ((s 8#4 7#4).sp.v = 8#4 ∧ (s 8#4 7#4).sp.n.toNat < 8)
      ∧ (SpOk small (s 8#4 7#4).sp ∧ (s 8#4 7#4).sp.phase = spEVOLVE ∧ (s 8#4 7#4).sp.sub = sub1) := by decide

theorem witness_EvolveWriteStoresLife :
    let s := fun cx => (atSp spEVOLVE sub2).setSp { (atSp spEVOLVE sub2).sp with cx := cx }
    (Memory.wf small.cellCount (s 2).mem = true ∧ (s 2).sp.cx < small.gridW ∧ (s 2).sp.cy < small.gridH)
      ∧ ((s 1).sp.cx + 1 < small.gridW ∧ (s 2).sp.cx + 1 = small.gridW ∧ (s 2).sp.cy + 1 = small.gridH)
      ∧ ((s 2).sp.cy + 1 < ({ small with gridH := 2 } : Cfg).gridH ∧ (0 : Nat) ≠ cellAddr small (s 2).sp.cx (s 2).sp.cy) := by decide

theorem witness_TransitionLoadsAndWritesACell :
    let s := fun cx => (atSp spTRANSITION sub1).setSp { (atSp spTRANSITION sub1).sp with cx := cx }
    (Memory.wf small.cellCount (s 2).mem = true ∧ (s 2).sp.cx < small.gridW ∧ (s 2).sp.cy < small.gridH)
      ∧ ((s 1).sp.cx + 1 < small.gridW ∧ (s 2).sp.cx + 1 = small.gridW ∧ (s 2).sp.cy + 1 = small.gridH)
      ∧ ((s 2).sp.cy + 1 < ({ small with gridH := 2 } : Cfg).gridH ∧ (0 : Nat) ≠ cellAddr small (s 2).sp.cx (s 2).sp.cy) := by decide

theorem witness_BankPortsRefuse :
    let s := (atSp spEVOLVE sub0).setSp { (atSp spEVOLVE sub0).sp with pag := 4, cy := 3 }
    Memory.wf s.cfg.cellCount s.mem = true ∧ s.cfg.cellCount ≤ cellAddr s.cfg s.sp.cx s.sp.cy
      ∧ s.cfg.cellCount ≤ visitAddr s.cfg s.sp.cx s.sp.cy s.sp.v.toNat
      ∧ s.cfg.cellCount ≤ pixelAddr s.cfg s.sp.col s.sp.pag := by decide

theorem witness_TransactionCompletes :
    small.wf = true ∧ s0.pe.state = peIDLE ∧ NoRst (transactionCycles small 15 + 1) (driven [⟨true, false⟩] s0)
      ∧ (0#4 : BitVec 4) ≠ 15#4 := by decide

theorem witness_TransactionWaitsForIdle :
    small.wf = true ∧ PeOk small (atPe peRX 7#3 .setup 15#4).pe ∧ PeOk small (atPe peEMIT 0#3 .setup 1#4).pe ∧ PeOk small s0.pe
      ∧ (∀ i ∈ (driven [⟨true, false⟩] s0).inputs, i.rst = false) := by decide

theorem witness_InitCmdSubmitsTheEntry :
    small.wf = true ∧ (atIs isNEXT 2).pe.state = peIDLE ∧ (atIs isNEXT 2).is.e < small.initTable.length
      ∧ NoRst (2 + 1 * (byteCycles small + 1)) (driven [⟨true, false⟩] (atIs isNEXT 2)) := by decide

theorem witness_InitNopWaits :
    (atIs isNEXT 2).is.e < small.initTable.length ∧ NoRst (small.tRelease + 1) (driven [⟨true, false⟩] (atIs isNEXT 2))
      ∧ (atIs isNEXT 2).pe.state = peIDLE
      ∧ (peTrace small (atIs isNEXT 2).misoAt (atPe peTX 7#3 .setup 0#4).pe 1).state = peTX := by decide

theorem witness_StepRunsTheDecodedRows :
    (s0.cfg.wf = true ∧ s0.rst = false ∧ (driven [⟨false, true⟩] s0).rst = true)
      ∧ (decode 0x00#8 (.peState s0.pe.state) = .ok .peIdle ∧ decode 0x00#8 (.isState s0.is.state) = .ok .isReset
        ∧ decode 0x00#8 (.spState (s0.sp.phase ++ s0.sp.sub)) = .ok .spBringup)
      ∧ (runs (exec .peIdle s0) = true ∧ runs (exec .isReset s0) = true ∧ runs (exec .spBringup s0) = true)
      ∧ refusal? (exec .spTransitionLoad ((atSp spTRANSITION sub0).setSp { (atSp spTRANSITION sub0).sp with cy := 1 }))
        = some .addressOutOfRange := by decide

theorem witness_PeAndIsRowsTouchTheirRegistersOnly :
    runs (exec .peEmit (atPe peEMIT 0#3 .setup 1#4)) = true ∧ runs (exec .isParam (atIs isPARAM 2)) = true := by decide

theorem witness_SpRowsTouchWhatTheyName :
    runs (exec .spRenderByte1 (atSp spRENDER sub2)) = true ∧ runs (exec .spEvolveWrite (atSp spEVOLVE sub2)) = true
      ∧ runs (exec .spTransitionWrite (atSp spTRANSITION sub1)) = true
      ∧ (1 : Nat) ≠ cellAddr small (atSp spEVOLVE sub2).sp.cx (atSp spEVOLVE sub2).sp.cy := by decide

theorem witness_InvariantKeptByEveryStep :
    (Inv s0 ∧ runs (step s0) = true) ∧ (Inv (reading 15#4) ∧ runs (step (reading 15#4)) = true)
      ∧ (Inv (oneAt spTRANSITION sub1) ∧ runs (step (oneAt spTRANSITION sub1)) = true) :=
  ⟨⟨inv_s0, by decide⟩, ⟨inv_reading _, by decide⟩, inv_copy, by decide⟩

theorem witness_OnlyTheFourRefusals :
    small.wf = true ∧ Inv s0 ∧ Inv (oneAt spEVOLVE sub0)
      ∧ refusal? (step { s0 with cfg := { small with scale := 0 } }) = some .illFormedCfg
      ∧ refusal? (step ((atSp spEVOLVE sub0).setSp { (atSp spEVOLVE sub0).sp with cy := 3 })) = some .addressOutOfRange :=
  ⟨by decide, inv_s0, inv_evolve, by decide⟩

/-- A command and an external request held while the PE is busy, and the step in which done rises. -/
theorem witness_ProducersHoldTheirRequest :
    (let s := (atIs isCMD 2).setPe (atPe peTX 3#3 .setup 0#4).pe
     runs (step s) = true ∧ s.rst = false ∧ s.reqValid = true ∧ s.reqReady = false)
      ∧ (let s := offering ⟨0x22#8, false, 0#4⟩ (atPe peRX 3#3 .setup 2#4)
         runs (step s) = true ∧ s.rst = false ∧ s.reqValid = true ∧ s.reqReady = false)
      ∧ ((atIs isNEXT 3).done = false ∧ (next? (step (atIs isNEXT 3))).map State.done = some true) := by decide

theorem witness_PhasesOwnTheBanks :
    (runs (step s0) = true ∧ runs (step (atSp spBEGIN sub0)) = true ∧ runs (step (atSp spRENDER sub0)) = true)
      ∧ (runs (step (atSp spEVOLVE sub0)) = true ∧ runs (step (atSp spTRANSITION sub1)) = true ∧ s0.rst = false) := by decide

theorem witness_ModeLineHoldsTheMode :
    (Inv (reading 2#4) ∧ runs (step (reading 2#4)) = true ∧ (reading 2#4).rst = false ∧ (reading 2#4).pe.state ≠ peTX
      ∧ (reading 2#4).reqReady = true ∧ (reading 2#4).port = some ⟨0x04#8, true, 2#4⟩)
      ∧ (Inv (atPe peTX 7#3 .setup 0#4) ∧ (atPe peTX 7#3 .setup 0#4).pe.state = peTX
        ∧ (next? (step (atPe peTX 7#3 .setup 0#4))).map (·.pe.state) = some peTX) :=
  ⟨⟨inv_reading _, by decide⟩, inv_sending, by decide⟩

/-- The same busy PE with and without an offer (V8), and the same idle PE with two levels of miso. -/
theorem witness_BusyPeIgnoresThePort :
    (let s := atPe peTX 5#3 .setup 0#4
     let s' := offering ⟨0x22#8, false, 0#4⟩ s
     runs (step s) = true ∧ runs (step s') = true ∧ s.rst = false ∧ s'.rst = false ∧ s.cfg = s'.cfg ∧ s.pe = s'.pe
       ∧ s.reqReady = false ∧ s.inputs = s'.inputs ∧ s.tick = s'.tick)
      ∧ (let s := driven [⟨true, false⟩] (reading 1#4)
         let s' := driven [⟨false, false⟩] (reading 1#4)
         runs (step s) = true ∧ runs (step s') = true ∧ s.cfg = s'.cfg ∧ s.pe = s'.pe ∧ s.reqReady = true ∧ s.port = s'.port) := by
  decide

theorem witness_MisoReachesPeRxAlone :
    runs (step (driven [⟨true, false⟩] (atPe peRX 0#3 .active 1#4))) = true
      ∧ ([⟨false, false⟩] : List Input).map Input.rst = (driven [⟨true, false⟩] (atPe peRX 0#3 .active 1#4)).inputs.map Input.rst := by
  decide

theorem witness_ResponseStreamStaysSilent :
    (Silent s0 ∧ runs (step s0) = true) ∧ (Silent (atPe peTX 0#3 .active 0#4) ∧ runs (step (atPe peTX 0#3 .active 0#4)) = true) := by
  decide

theorem witness_RegistersFitTheirWidths : Inv s0 ∧ Inv (atIs isPARAM 2) ∧ Inv (oneAt spRENDER sub2) :=
  ⟨inv_s0, inv_param2, inv_render⟩

/-- One row, so that both wrap cases of its axis occur at its one cell. -/
theorem witness_WrapIsTheTorus :
    (1 : Nat) ≤ small.gridH ∧ 0 < small.gridW ∧ 2 < small.gridW ∧ 0 < small.gridH
      ∧ visitAddr small 0 0 0 = 2 ∧ visitAddr small 2 0 8 = 0
      ∧ 1 ≤ small.scale ∧ 5 < small.dispCols ∧ 1 < small.dispPages ∧ pixelAddr small 5 1 = 2 := by decide

theorem witness_VisitsCoverTheNeighbourhood :
    let c : Cfg := { small with gridW := 3, gridH := 3 }
    (2 : Nat) < c.gridW ∧ 2 < c.gridH ∧ 2 ≤ c.gridW ∧ 2 ≤ c.gridH ∧ 3 ≤ c.gridW ∧ 3 ≤ c.gridH
      ∧ visitAddr c 2 2 8 = visitAddr c 2 2 8 := by
  decide

theorem witness_PixelShowsItsBlocksCell : 1 ≤ small.scale ∧ 5 < small.dispCols ∧ 1 < small.dispPages := by decide

/-- The last cycle of the last slot of the request frame. -/
theorem witness_RequestFrameOnTheLine :
    Inv (reading 0#4) ∧ (reading 0#4).reqReady = true ∧ (reading 0#4).port = some ⟨0x04#8, true, 0#4⟩ ∧ 1 < slotCycles small
      ∧ NoRst (1 + 7 * slotCycles small + 1) (reading 0#4) :=
  ⟨inv_reading _, by decide⟩

/-- The fifteenth response byte. -/
theorem witness_ResponseFramesOnTheLine :
    Inv (reading 15#4) ∧ (reading 15#4).reqReady = true ∧ (reading 15#4).port = some ⟨0x04#8, true, 15#4⟩ ∧ 14 < (15#4).toNat
      ∧ NoRst (byteCycles small + 15 * (byteCycles small + 1)) (reading 15#4) :=
  ⟨inv_reading _, by decide⟩

theorem witness_StepsRunTheTransaction :
    (Inv (reading 2#4) ∧ (reading 2#4).reqReady = true ∧ (reading 2#4).port = some ⟨0x04#8, true, 2#4⟩
      ∧ NoRst (transactionCycles small 2 + 1) (reading 2#4))
      ∧ (Inv (atIs isCMD 0) ∧ (atIs isCMD 0).reqReady = true ∧ (atIs isCMD 0).port = some ⟨0xA1#8, true, 0#4⟩) :=
  ⟨⟨inv_reading _, by decide⟩, inv_cmd0, by decide⟩

theorem witness_StepsRunTheTableEntry :
    (Inv (atIs isNEXT 1) ∧ (atIs isNEXT 1).extReqs = [] ∧ (atIs isNEXT 1).is.state = isNEXT
      ∧ small.initTable[(atIs isNEXT 1).is.e]? = some ⟨0x00#8, []⟩ ∧ ∀ i ∈ (atIs isNEXT 1).inputs, i.rst = false)
      ∧ (Inv (atIs isNEXT 2) ∧ small.initTable[(atIs isNEXT 2).is.e]? = some ⟨0xB2#8, [0x01#8]⟩) :=
  ⟨⟨inv_next1, by decide⟩, inv_next2, by decide⟩

theorem witness_ResetLineLowForTheResetPulse :
    small.wf = true ∧ NoRst 0 (driven [⟨false, true⟩] s0) ∧ NoRst 3 (driven [⟨true, false⟩, ⟨false, false⟩] s0) := by decide

theorem witness_BringupReplaysTheTable : small.wf = true ∧ ∀ i ∈ ([⟨true, false⟩] : List Input), i.rst = false := by decide

theorem witness_RenderSendsTheFrame :
    let s := oneAt spBEGIN sub0
    Inv s ∧ s.extReqs = [] ∧ s.sp.phase = spBEGIN ∧ s.reqReady = true
      ∧ NoRst (1 + 2 * (byteCycles s.cfg + 1) * (s.cfg.dispCols * s.cfg.dispPages)) s :=
  ⟨inv_begin, by decide⟩

theorem witness_EvolveComputesOneGeneration :
    let s := oneAt spEVOLVE sub0
    Inv s ∧ s.sp.phase = spEVOLVE ∧ s.sp.sub = sub0 ∧ s.sp.cx = 0 ∧ s.sp.cy = 0 ∧ s.sp.v = 0#4 ∧ s.sp.n = 0#4
      ∧ NoRst (19 * s.cfg.cellCount) s :=
  ⟨inv_evolve, by decide⟩

theorem witness_TransitionCopiesTheBank :
    let s := oneAt spTRANSITION sub0
    Inv s ∧ s.sp.phase = spTRANSITION ∧ s.sp.sub = sub0 ∧ s.sp.cx = 0 ∧ s.sp.cy = 0 ∧ NoRst (2 * s.cfg.cellCount) s :=
  ⟨inv_load, by decide⟩

theorem witness_FramesShowTheGenerations : one.wf = true ∧ ∀ i ∈ ([⟨true, false⟩] : List Input), i.rst = false := by decide

end Sys2Proof.Tests
end

section
/-! SUPPORT. A well-formed build in the words of R10, and what the invariant of Safety.lean says of each machine state by state: each
machine's cycle keeps its part of it, and so a step keeps all of it. -/

namespace Sys2Proof

/-- R10's condition on an entry: a sentinel has no parameters. -/
theorem Entry.wf_iff {nop : Byte} {e : Entry} : e.wf nop = true ↔ (e.cmd = nop → e.params = []) := by
  by_cases h : e.cmd = nop <;> simp [Entry.wf, h]

/-- The conditions of R10 that the types of Cfg do not give by themselves. -/
theorem Cfg.wf_iff {c : Cfg} :
    c.wf = true ↔
      (1 ≤ c.gridW ∧ 1 ≤ c.gridH ∧ 1 ≤ c.scale) ∧ (1 ≤ c.tReset ∧ 1 ≤ c.tRelease ∧ 1 ≤ c.tSetup ∧ 1 ≤ c.tActive)
        ∧ c.seed.length = c.cellCount ∧ ∀ e ∈ c.initTable, e.cmd = c.cmdNop → e.params = [] := by
  simp only [Cfg.wf, Bool.and_eq_true, decide_eq_true_eq, List.all_eq_true, Entry.wf_iff, and_assoc]

/-- A byte is in 0..255. -/
theorem Byte.toNat_le (b : Byte) : b.toNat ≤ 255 := Nat.le_of_lt_succ b.isLt

end Sys2Proof

namespace Sys2Proof.Machine

open Sys2Proof.Safety

/-! The Protocol Engine. -/

/-- The phase counter is inside the phase of the bit slot it counts (R106). -/
def PhaseOk (c : Cfg) (p : PeRegs) : Prop := (p.ph = .setup → p.pcnt < c.tSetup) ∧ (p.ph = .active → p.pcnt < c.tActive)

section
variable {c : Cfg} {p : PeRegs}

theorem phaseOk_setup_zero (hs : 1 ≤ c.tSetup) (hph : p.ph = .setup) (hpc : p.pcnt = 0) : PhaseOk c p := by
  simp [PhaseOk, hph, hpc, Nat.lt_of_succ_le hs]

theorem peOk_idle_iff (hs : 1 ≤ c.tSetup) (h : p.state = peIDLE) :
    PeOk c p ↔ p.ph = .setup ∧ p.pcnt = 0 ∧ p.rem = 0#4 ∧ p.dc = false := by
  constructor
  · rintro ⟨-, -, hz, hr, -, hd⟩
    exact ⟨(hz (.inl h)).1, (hz (.inl h)).2, hr h, hd (by simp [h])⟩
  · rintro ⟨hph, hpc, hr, hd⟩
    obtain ⟨h1, h2⟩ := phaseOk_setup_zero hs hph hpc
    simp [PeOk, h, hph, hpc, hr, hd, Nat.lt_of_succ_le hs]

theorem peOk_tx_iff (h : p.state = peTX) : PeOk c p ↔ PhaseOk c p := by simp [PeOk, PhaseOk, h]

theorem peOk_rx_iff (h : p.state = peRX) : PeOk c p ↔ PhaseOk c p ∧ p.rem ≠ 0#4 ∧ p.dc = false := by
  simp [PeOk, PhaseOk, h, and_assoc]

theorem peOk_emit_iff (hs : 1 ≤ c.tSetup) (h : p.state = peEMIT) :
    PeOk c p ↔ p.ph = .setup ∧ p.pcnt = 0 ∧ p.rem ≠ 0#4 ∧ p.dc = false := by
  constructor
  · rintro ⟨-, -, hz, -, hr, hd⟩
    exact ⟨(hz (.inr h)).1, (hz (.inr h)).2, hr (.inr h), hd (by simp [h])⟩
  · rintro ⟨hph, hpc, hr, hd⟩
    simp [PeOk, h, hph, hpc, hr, hd, Nat.lt_of_succ_le hs]


/-- One cycle of a bit slot: the phase and its counter go on inside the slot, or the slot is over and its last cycle does its work. -/
theorem bitSlotRule_cases (ha : 1 ≤ c.tActive) (h : PhaseOk c p) (atEnd : PeRegs → PeRegs) :
    (∃ q : PeRegs, PhaseOk c q ∧ bitSlotRule c p atEnd = { p with ph := q.ph, pcnt := q.pcnt })
      ∨ bitSlotRule c p atEnd = atEnd { p with pcnt := 0, ph := .setup } := by
  obtain ⟨hs, hact⟩ := h
  unfold bitSlotRule
  split
  · next hph =>
    have hlt := hs hph
    split_ifs with hlast
    · exact .inl ⟨{ p with ph := .active, pcnt := 0 }, by simp [PhaseOk, Nat.lt_of_succ_le ha], rfl⟩
    · have hb : bump (pcntWidth c) p.pcnt = p.pcnt + 1 := bump_setup (by omega)
      exact .inl ⟨{ p with pcnt := p.pcnt + 1 }, by simp [PhaseOk, hph]; omega, by rw [hb]⟩
  · next hph =>
    have hlt := hact hph
    split_ifs with hmore
    · have hb : bump (pcntWidth c) p.pcnt = p.pcnt + 1 := bump_active (by omega)
      exact .inl ⟨{ p with pcnt := p.pcnt + 1 }, by simp [PhaseOk, hph]; omega, by rw [hb]⟩
    · exact .inr rfl

/-- An acceptance, or none, in IDLE (R131). -/
theorem peIdleRule_keeps_peOk (hs : 1 ≤ c.tSetup) (o : Option Req) (h : PeOk c p) : PeOk c (peIdleRule o p) := by
  cases o with
  | none => exact h
  | some r => exact (peOk_tx_iff (by rfl)).2 (phaseOk_setup_zero hs rfl rfl)

/-- The end of a request bit keeps the PE's invariant (R132). -/
theorem txBitEnd_keeps_peOk (hs : 1 ≤ c.tSetup) (ht : p.state = peTX) (hph : p.ph = .setup) (hpc : p.pcnt = 0) :
    PeOk c (txBitEnd p) := by
  have hz : PhaseOk c p := phaseOk_setup_zero hs hph hpc
  unfold txBitEnd
  split_ifs with hb hr
  · exact (peOk_tx_iff (by exact ht)).2 hz
  · exact (peOk_idle_iff hs (by rfl)).2 ⟨hph, hpc, hr, rfl⟩
  · exact (peOk_rx_iff (by rfl)).2 ⟨hz, hr, rfl⟩

/-- The end of a response bit keeps the PE's invariant (R133). -/
theorem rxBitEnd_keeps_peOk (hs : 1 ≤ c.tSetup) (m : Bool) (ht : p.state = peRX) (hph : p.ph = .setup) (hpc : p.pcnt = 0)
    (hr : p.rem ≠ 0#4) (hd : p.dc = false) : PeOk c (rxBitEnd m p) := by
  unfold rxBitEnd
  split_ifs with hb
  · exact (peOk_rx_iff (by exact ht)).2 ⟨phaseOk_setup_zero hs hph hpc, hr, hd⟩
  · exact (peOk_emit_iff hs (by rfl)).2 ⟨hph, hpc, hr, hd⟩

/-- The emit cycle leaves nothing to receive, or one byte less and still one (R134). -/
theorem peEmitRule_keeps_peOk (hs : 1 ≤ c.tSetup) (ht : p.state = peEMIT) (h : PeOk c p) : PeOk c (peEmitRule p) := by
  obtain ⟨hph, hpc, hr, hd⟩ := (peOk_emit_iff hs ht).1 h
  unfold peEmitRule
  split_ifs with h1
  · exact (peOk_idle_iff hs (by rfl)).2 ⟨hph, hpc, by simp [h1], hd⟩
  · exact (peOk_rx_iff (by rfl)).2 ⟨phaseOk_setup_zero hs rfl rfl, by show p.rem - 1#4 ≠ 0#4; bv_omega, hd⟩

/-- pe_state is one of its four codes (R38). -/
theorem peState_cases (x : BitVec 2) : x = peIDLE ∨ x = peTX ∨ x = peRX ∨ x = peEMIT := by
  revert x
  decide

/-- Every cycle of the PE keeps its invariant, whatever is offered and whatever miso is. -/
theorem peRule_keeps_peOk (hs : 1 ≤ c.tSetup) (ha : 1 ≤ c.tActive) (o : Option Req) (m : Bool) (h : PeOk c p) :
    PeOk c (peRule c o m p) := by
  rcases peState_cases p.state with ht | ht | ht | ht
  · rw [peRule_idle ht]
    exact peIdleRule_keeps_peOk hs o h
  · rw [peRule_tx ht, peTxRule]
    obtain ⟨q, hq, heq⟩ | heq := bitSlotRule_cases ha ((peOk_tx_iff ht).1 h) txBitEnd <;> rw [heq]
    · exact (peOk_tx_iff (by exact ht)).2 hq
    · exact txBitEnd_keeps_peOk hs ht rfl rfl
  · rw [peRule_rx ht, peRxRule]
    obtain ⟨hph, hr, hd⟩ := (peOk_rx_iff ht).1 h
    obtain ⟨q, hq, heq⟩ | heq := bitSlotRule_cases ha hph (rxBitEnd m) <;> rw [heq]
    · exact (peOk_rx_iff (by exact ht)).2 ⟨hq, hr, hd⟩
    · exact rxBitEnd_keeps_peOk hs m ht rfl rfl hr hd
  · rw [peRule_emit ht]
    exact peEmitRule_keeps_peOk hs ht h

end

/-! The Init Sequencer. -/

section
variable {c : Cfg} {r : IsRegs}

theorem isOk_reset_iff (h : r.state = isRESET) : IsOk c r ↔ r.cnt < c.tReset ∧ r.e = 0 ∧ r.p = 0 := by
  simp +contextual [IsOk, h, and_assoc]

theorem isOk_wait_iff (h : r.state = isWAIT) : IsOk c r ↔ r.cnt < c.tRelease ∧ r.e ≤ c.initTable.length ∧ r.p = 0 := by
  simp [IsOk, h]

theorem isOk_next_iff (h : r.state = isNEXT) : IsOk c r ↔ r.cnt = 0 ∧ r.e ≤ c.initTable.length ∧ r.p = 0 := by
  simp [IsOk, h]

theorem isOk_cmd_iff (h : r.state = isCMD) :
    IsOk c r ↔ r.cnt = 0 ∧ r.e < c.initTable.length ∧ (romEntry c r.e).cmd ≠ c.cmdNop ∧ r.p = 0 := by
  simp +contextual [IsOk, h, and_assoc, le_of_lt]

theorem isOk_param_iff (h : r.state = isPARAM) :
    IsOk c r ↔ r.cnt = 0 ∧ r.e < c.initTable.length ∧ (romEntry c r.e).cmd ≠ c.cmdNop ∧ r.p < (romEntry c r.e).params.length := by
  simp +contextual [IsOk, h, and_assoc, le_of_lt]

theorem isOk_done_iff (h : r.state = isDONE) : IsOk c r ↔ r.cnt = 0 ∧ r.e = c.initTable.length ∧ r.p = 0 := by
  constructor
  · rintro ⟨-, -, -, hc, -, -, -, hp, he⟩
    exact ⟨hc (by simp [h]) (by simp [h]), he h, hp (by simp [h])⟩
  · rintro ⟨hc, he, hp⟩
    simp [IsOk, h, hc, he, hp]

/-- A listed is_state is one of the six of R46. -/
theorem isState_cases {x : BitVec 3} (h : x.toNat ≤ 5) :
    x = isRESET ∨ x = isWAIT ∨ x = isNEXT ∨ x = isCMD ∨ x = isPARAM ∨ x = isDONE := by
  revert x
  decide

/-- The entry counter takes every value up to the table's length without a wrap (R48). -/
theorem bump_entry {e : Nat} (h : e < c.initTable.length) : bump (entryWidth c) e = e + 1 := bump_regWidth (by omega)

theorem bump_entry_le {e : Nat} (h : e < c.initTable.length) : bump (entryWidth c) e ≤ c.initTable.length :=
  (bump_entry h).trans_le h

/-- The parameter counter takes every index of an entry's parameters without a wrap (R49). -/
theorem bump_param {e p : Nat} (he : e < c.initTable.length) (h : p + 1 < (romEntry c e).params.length) :
    bump (paramWidth c) p = p + 1 :=
  bump_regWidth (h.trans_le (params_le_maxParams (List.mem_of_getElem? (getElem?_romEntry he))))

/-- Inside a count of at most the longer of the two times is_cnt does not wrap (R47). -/
theorem bump_isCnt {t v : Nat} (ht : t ≤ max c.tReset c.tRelease) (h : v + 1 < t) : bump (isCntWidth c) v = v + 1 :=
  bump_regWidth (h.trans_le ht)

/-- A counting cycle: the counter is done and back at 0, or it is one further and still inside. -/
theorem isCountRule_cases {t : Nat} (ht : t ≤ max c.tReset c.tRelease) (after : BitVec 3) (h : r.cnt < t) :
    isCountRule c t after r = { r with cnt := 0, state := after }
      ∨ (r.cnt + 1 < t ∧ isCountRule c t after r = { r with cnt := r.cnt + 1 }) := by
  unfold isCountRule
  split_ifs with hlast
  · exact .inl rfl
  · have hlt : r.cnt + 1 < t := by omega
    exact .inr ⟨hlt, by rw [bump_isCnt ht hlt]⟩

/-- The dispatch of an entry (R173). -/
theorem isNextRule_keeps_isOk (hw : 1 ≤ c.tRelease) (hst : r.state = isNEXT) (h : IsOk c r) : IsOk c (isNextRule c r) := by
  obtain ⟨hc, he, hp⟩ := (isOk_next_iff hst).1 h
  unfold isNextRule
  split_ifs with hend hnop
  · exact (isOk_done_iff (by rfl)).2 ⟨hc, hend, hp⟩
  · exact (isOk_wait_iff (by rfl)).2 ⟨hw, bump_entry_le (by omega), hp⟩
  · exact (isOk_cmd_iff (by rfl)).2 ⟨hc, by show r.e < _; omega, hnop, hp⟩

/-- A command byte that is held, that was the whole entry, or that parameters follow (R174). -/
theorem isCmdRule_keeps_isOk (fire : Bool) (hst : r.state = isCMD) (h : IsOk c r) : IsOk c (isCmdRule c fire r) := by
  obtain ⟨hc, he, hcmd, hp⟩ := (isOk_cmd_iff hst).1 h
  unfold isCmdRule
  split_ifs with hf hnone
  · exact (isOk_next_iff (by rfl)).2 ⟨hc, bump_entry_le he, hp⟩
  · exact (isOk_param_iff (by rfl)).2 ⟨hc, he, hcmd, Nat.pos_of_ne_zero hnone⟩
  · exact h

/-- A parameter byte that is held, that was the entry's last, or that another follows (R175). -/
theorem isParamRule_keeps_isOk (fire : Bool) (hst : r.state = isPARAM) (h : IsOk c r) : IsOk c (isParamRule c fire r) := by
  obtain ⟨hc, he, hcmd, hp⟩ := (isOk_param_iff hst).1 h
  unfold isParamRule
  split_ifs with hf hlast
  · exact (isOk_next_iff (by rfl)).2 ⟨hc, bump_entry_le he, rfl⟩
  · have hlt : r.p + 1 < (romEntry c r.e).params.length := by omega
    refine (isOk_param_iff (by exact hst)).2 ⟨hc, he, hcmd, ?_⟩
    simpa only [bump_param he hlt] using hlt
  · exact h

end

/-- Every cycle of the IS keeps its invariant. -/
theorem isRule_keeps_isOk {s : State} (hw : 1 ≤ s.cfg.tRelease) (h : IsOk s.cfg s.is) : IsOk s.cfg (isRule s) := by
  rcases isState_cases h.1 with hst | hst | hst | hst | hst | hst
  · obtain ⟨hc, he, hp⟩ := (isOk_reset_iff hst).1 h
    rw [show isRule s = isCountRule s.cfg s.cfg.tReset isWAIT s.is by simp [isRule, hst]]
    obtain heq | ⟨hlt, heq⟩ := isCountRule_cases (le_max_left _ _) isWAIT hc <;> rw [heq]
    · exact (isOk_wait_iff (by rfl)).2 ⟨hw, by simp [he], hp⟩
    · exact (isOk_reset_iff (by exact hst)).2 ⟨hlt, he, hp⟩
  · obtain ⟨hc, he, hp⟩ := (isOk_wait_iff hst).1 h
    rw [show isRule s = isCountRule s.cfg s.cfg.tRelease isNEXT s.is by simp [isRule, hst]]
    obtain heq | ⟨hlt, heq⟩ := isCountRule_cases (le_max_right _ _) isNEXT hc <;> rw [heq]
    · exact (isOk_next_iff (by rfl)).2 ⟨rfl, he, hp⟩
    · exact (isOk_wait_iff (by exact hst)).2 ⟨hlt, he, hp⟩
  · rw [show isRule s = isNextRule s.cfg s.is by simp [isRule, hst]]
    exact isNextRule_keeps_isOk hw hst h
  · rw [show isRule s = isCmdRule s.cfg s.isFire s.is by simp [isRule, hst]]
    exact isCmdRule_keeps_isOk _ hst h
  · rw [show isRule s = isParamRule s.cfg s.isFire s.is by simp [isRule, hst]]
    exact isParamRule_keeps_isOk _ hst h
  · rw [show isRule s = s.is by simp [isRule, hst]]
    exact h

/-- done, once 1, stays 1 (R176). -/
theorem isRule_of_done {s : State} (h : s.done = true) : isRule s = s.is := by
  have hst : s.is.state = isDONE := by simpa [State.done] using h
  simp [isRule, hst]

/-! The Simulation Pipeline. -/

/-- What the SP's registers can be after a cycle without rst: unchanged, or moved on by the row of their phase and sub-state. -/
inductive SpMove (s : State) : SpRegs → Prop where
  | hold : SpMove s s.sp
  | start (hp : s.sp.phase = spBRINGUP) (hd : s.done = true) : SpMove s { s.sp with phase := spBEGIN, sub := sub0 }
  | openFrame (hp : s.sp.phase = spBEGIN) : SpMove s { s.sp with col := 0, pag := 0, phase := spRENDER, sub := sub0 }
  | readPixel (hp : s.sp.phase = spRENDER) : SpMove s { s.sp with sub := sub1 }
  | sendByte0 (hp : s.sp.phase = spRENDER) : SpMove s { s.sp with sub := sub2 }
  | sendByte1 (hp : s.sp.phase = spRENDER) : SpMove s (nextPixelRule s.cfg s.sp)
  | readVisit (hp : s.sp.phase = spEVOLVE) (hs : s.sp.sub = sub0) : SpMove s { s.sp with sub := sub1 }
  | takeVisit (hp : s.sp.phase = spEVOLVE) (hs : s.sp.sub = sub1) : SpMove s (accumulateRule s.mem.cur.rdata s.sp)
  | writeCell (hp : s.sp.phase = spEVOLVE) : SpMove s (nextCellRule s.cfg spTRANSITION { s.sp with n := 0#4, v := 0#4 })
  | loadCell (hp : s.sp.phase = spTRANSITION) : SpMove s { s.sp with sub := sub1 }
  | copyCell (hp : s.sp.phase = spTRANSITION) : SpMove s (nextCellRule s.cfg spBEGIN s.sp)

/-- A row that waits for its transfer moves on or holds. -/
theorem SpMove.of_ite {s : State} {b : Bool} {r : SpRegs} (h : b = true → SpMove s r) : SpMove s (if b then r else s.sp) := by
  cases b with
  | false => exact .hold
  | true => exact h rfl

/-- Every SP row is a commit of one of these moves. -/
theorem exec_spRow {s : State} {k : Instr} (h : decodeSpState (s.sp.phase ++ s.sp.sub) = .ok k) :
    ∃ r cur nxt, exec k s = spCommit s r cur nxt ∧ SpMove s r := by
  rcases decodeSp_cases h with ⟨hc, rfl⟩ | ⟨hc, rfl⟩ | ⟨hc, rfl⟩ | ⟨hc, rfl⟩ | ⟨hc, rfl⟩ | ⟨hc, rfl⟩ | ⟨hc, rfl⟩ | ⟨hc, rfl⟩
    | ⟨hc, rfl⟩ | ⟨hc, rfl⟩
  · exact ⟨_, .quiet, .quiet, rfl, .of_ite (.start (spCode_fields (x := spBRINGUP) (y := sub0) hc).1)⟩
  · exact ⟨_, .quiet, .quiet, rfl, .of_ite fun _ => .openFrame (spCode_fields (x := spBEGIN) (y := sub0) hc).1⟩
  · exact ⟨_, _, _, rfl, .readPixel (spCode_fields (x := spRENDER) (y := sub0) hc).1⟩
  · exact ⟨_, .quiet, .quiet, rfl, .of_ite fun _ => .sendByte0 (spCode_fields (x := spRENDER) (y := sub1) hc).1⟩
  · exact ⟨_, .quiet, .quiet, rfl, .of_ite fun _ => .sendByte1 (spCode_fields (x := spRENDER) (y := sub2) hc).1⟩
  · obtain ⟨hp, hs⟩ := spCode_fields (x := spEVOLVE) (y := sub0) hc
    exact ⟨_, _, _, rfl, .readVisit hp hs⟩
  · obtain ⟨hp, hs⟩ := spCode_fields (x := spEVOLVE) (y := sub1) hc
    exact ⟨_, .quiet, .quiet, rfl, .takeVisit hp hs⟩
  · exact ⟨_, _, _, rfl, .writeCell (spCode_fields (x := spEVOLVE) (y := sub2) hc).1⟩
  · exact ⟨_, _, _, rfl, .loadCell (spCode_fields (x := spTRANSITION) (y := sub0) hc).1⟩
  · exact ⟨_, _, _, rfl, .copyCell (spCode_fields (x := spTRANSITION) (y := sub1) hc).1⟩

/-- Whichever row the SP runs, its registers make a move and the banks keep their form. -/
theorem exec_spRow_next {s u : State} {k : Instr} {n : Nat} (h : decodeSpState (s.sp.phase ++ s.sp.sub) = .ok k)
    (hu : exec k s = .next u) (hm : Memory.wf n s.mem = true) : SpMove s u.sp ∧ Memory.wf n u.mem = true := by
  obtain ⟨r, cur, nxt, hk, hmove⟩ := exec_spRow h
  rw [hk] at hu
  refine ⟨?_, spCommit_keeps_wf hu hm⟩
  obtain ⟨_, _, -, -, rfl⟩ := spCommit_next hu
  exact hmove

section
variable {c : Cfg} {r : SpRegs}

/-- The pairs that R112 lists, phase by phase. -/
theorem spListed_iff (r : SpRegs) :
    SpListed r ↔
      ((r.phase = spBRINGUP ∨ r.phase = spBEGIN) ∧ r.sub = sub0) ∨ ((r.phase = spRENDER ∨ r.phase = spEVOLVE) ∧ r.sub ≠ 0b11#2)
        ∨ (r.phase = spTRANSITION ∧ (r.sub = sub0 ∨ r.sub = sub1)) := by
  have key : ∀ (x : BitVec 3) (y : BitVec 2), (decodeSpState (x ++ y)).isOk = true ↔
      ((x = spBRINGUP ∨ x = spBEGIN) ∧ y = sub0) ∨ ((x = spRENDER ∨ x = spEVOLVE) ∧ y ≠ 0b11#2)
        ∨ (x = spTRANSITION ∧ (y = sub0 ∨ y = sub1)) := by decide
  exact key r.phase r.sub

/-- BRINGUP and BEGIN use no counter. -/
theorem spOk_start_iff (h : r.phase = spBRINGUP ∨ r.phase = spBEGIN) :
    SpOk c r ↔ r.sub = sub0 ∧ (r.col = 0 ∧ r.pag = 0) ∧ (r.cx = 0 ∧ r.cy = 0) ∧ r.v = 0#4 ∧ r.n = 0#4 := by
  rcases h with h | h <;> simp [SpOk, spListed_iff, h]

/-- RENDER uses the pixel counters. -/
theorem spOk_render_iff (h : r.phase = spRENDER) :
    SpOk c r ↔ r.sub ≠ 0b11#2 ∧ (r.col < c.dispCols ∧ r.pag < c.dispPages) ∧ (r.cx = 0 ∧ r.cy = 0) ∧ r.v = 0#4 ∧ r.n = 0#4 := by
  simp [SpOk, spListed_iff, h]

/-- The visit counter and the sum in EVOLVE: the sum is at most the number of neighbours visited. -/
def VisitOk (r : SpRegs) : Prop :=
  (r.sub ≠ sub2 → r.v.toNat ≤ 8 ∧ r.n.toNat + (if 4 < r.v.toNat then 1 else 0) ≤ r.v.toNat)
    ∧ (r.sub = sub2 → r.v = 8#4 ∧ r.n.toNat ≤ 8)

theorem visitOk_zero (hv : r.v = 0#4) (hn : r.n = 0#4) (hs : r.sub ≠ sub2) : VisitOk r := by simp [VisitOk, hv, hn, hs]

/-- EVOLVE uses the cell counters, the visit counter and the sum. -/
theorem spOk_evolve_iff (h : r.phase = spEVOLVE) :
    SpOk c r ↔ r.sub ≠ 0b11#2 ∧ (r.col = 0 ∧ r.pag = 0) ∧ (r.cx < c.gridW ∧ r.cy < c.gridH) ∧ VisitOk r := by
  simp [SpOk, VisitOk, spListed_iff, h]

/-- TRANSITION uses the cell counters. -/
theorem spOk_transition_iff (h : r.phase = spTRANSITION) :
    SpOk c r ↔ (r.sub = sub0 ∨ r.sub = sub1) ∧ (r.col = 0 ∧ r.pag = 0) ∧ (r.cx < c.gridW ∧ r.cy < c.gridH) ∧ r.v = 0#4 ∧ r.n = 0#4 := by
  simp [SpOk, spListed_iff, h]

/-- The scan over cells stays in the grid, or leaves it for the phase that follows (R238, R242). -/
theorem nextCellRule_cases (after : BitVec 3) (hx : r.cx < c.gridW) (hy : r.cy < c.gridH) :
    (∃ x y, x < c.gridW ∧ y < c.gridH ∧ nextCellRule c after r = { r with cx := x, cy := y, sub := sub0 })
      ∨ nextCellRule c after r = { r with cx := 0, cy := 0, phase := after, sub := sub0 } := by
  rcases Nat.lt_or_ge (r.cx + 1) c.gridW with h | h
  · exact .inl ⟨r.cx + 1, r.cy, h, hy, nextCellRule_next after h⟩
  have hrow : r.cx + 1 = c.gridW := by omega
  rcases Nat.lt_or_ge (r.cy + 1) c.gridH with h' | h'
  · exact .inl ⟨0, r.cy + 1, by omega, h', nextCellRule_row after hrow h'⟩
  · exact .inr (nextCellRule_last after hrow (by omega))

/-- A pixel's second byte: the next pixel of the display, or EVOLVE (R206). -/
theorem nextPixelRule_keeps_spOk (hw : 1 ≤ c.gridW) (hh : 1 ≤ c.gridH) (hp : r.phase = spRENDER) (h : SpOk c r) :
    SpOk c (nextPixelRule c r) := by
  obtain ⟨-, ⟨hcol, hpag⟩, hcell, hsum⟩ := (spOk_render_iff hp).1 h
  rcases Nat.lt_or_ge (r.col + 1) c.dispCols with h1 | h1
  · rw [nextPixelRule_next h1]
    exact (spOk_render_iff (by exact hp)).2 ⟨by simp, ⟨h1, hpag⟩, hcell, hsum⟩
  have hrow : r.col + 1 = c.dispCols := by omega
  rcases Nat.lt_or_ge (r.pag + 1) c.dispPages with h2 | h2
  · rw [nextPixelRule_page hrow h2]
    exact (spOk_render_iff (by exact hp)).2 ⟨by simp, ⟨by show 0 < c.dispCols; omega, h2⟩, hcell, hsum⟩
  · rw [nextPixelRule_last hrow (by omega)]
    exact (spOk_evolve_iff (by rfl)).2 ⟨by simp, ⟨rfl, rfl⟩, ⟨hw, hh⟩, visitOk_zero rfl rfl (by simp)⟩

/-- One visit taken in: the sum stays at most the number of neighbours visited, and so at most 8 (R237). -/
theorem accumulateRule_visitOk (d : Bool) (hs : r.sub = sub1) (h : VisitOk r) : VisitOk (accumulateRule d r) := by
  obtain ⟨hv, hn⟩ := h.1 (by simp [hs])
  have hd : d.toNat ≤ 1 := Bool.toNat_le d
  by_cases h8 : r.v = 8#4
  · have hn7 : r.n.toNat + 1 ≤ 8 := by simpa [h8] using hn
    have h84 : ¬ 8#4 = 4#4 := by decide
    have hsum := toNat_addBit d (n := r.n) (by omega)
    simp only [VisitOk, accumulateRule, h8, h84, if_false, if_true, hsum]
    exact ⟨by simp, fun _ => ⟨trivial, by omega⟩⟩
  have hv7 : r.v.toNat < 8 := by bv_omega
  have hnext : (r.v + 1#4).toNat = r.v.toNat + 1 := by bv_omega
  by_cases h4 : r.v = 4#4
  · have hn4 : r.n.toNat ≤ 4 := by simpa [h4] using hn
    simpa [VisitOk, accumulateRule, h4] using Nat.lt_succ_of_le hn4
  · have h4' : r.v.toNat ≠ 4 := by bv_omega
    have hsum := toNat_addBit d (n := r.n) (by split_ifs at hn <;> omega)
    simp only [VisitOk, accumulateRule, h4, h8, if_false, hnext, hsum]
    refine ⟨fun _ => ⟨by omega, ?_⟩, by simp⟩
    split_ifs at hn ⊢ <;> omega

theorem accumulateRule_keeps_spOk (d : Bool) (hp : r.phase = spEVOLVE) (hs : r.sub = sub1) (h : SpOk c r) :
    SpOk c (accumulateRule d r) := by
  obtain ⟨-, hpix, hcell, hvis⟩ := (spOk_evolve_iff hp).1 h
  refine (spOk_evolve_iff (by exact hp)).2 ⟨?_, hpix, hcell, accumulateRule_visitOk d hs hvis⟩
  simp only [accumulateRule]
  split_ifs <;> simp

/-- Writing a cell: the next target, or TRANSITION from its first cell (R238). -/
theorem writeCell_keeps_spOk (hp : r.phase = spEVOLVE) (h : SpOk c r) :
    SpOk c (nextCellRule c spTRANSITION { r with n := 0#4, v := 0#4 }) := by
  obtain ⟨-, hpix, ⟨hx, hy⟩, -⟩ := (spOk_evolve_iff hp).1 h
  obtain ⟨x, y, hx', hy', heq⟩ | heq :=
    nextCellRule_cases (c := c) (r := { r with n := 0#4, v := 0#4 }) spTRANSITION hx hy <;> rw [heq]
  · exact (spOk_evolve_iff (by exact hp)).2 ⟨by simp, hpix, ⟨hx', hy'⟩, visitOk_zero rfl rfl (by simp)⟩
  · exact (spOk_transition_iff (by rfl)).2 ⟨.inl rfl, hpix, ⟨Nat.zero_lt_of_lt hx, Nat.zero_lt_of_lt hy⟩, rfl, rfl⟩

/-- Copying a cell: the next cell, or BEGIN (R242). -/
theorem copyCell_keeps_spOk (hp : r.phase = spTRANSITION) (h : SpOk c r) : SpOk c (nextCellRule c spBEGIN r) := by
  obtain ⟨-, hpix, ⟨hx, hy⟩, hsum⟩ := (spOk_transition_iff hp).1 h
  obtain ⟨x, y, hx', hy', heq⟩ | heq := nextCellRule_cases spBEGIN hx hy <;> rw [heq]
  · exact (spOk_transition_iff (by exact hp)).2 ⟨.inl rfl, hpix, ⟨hx', hy'⟩, hsum⟩
  · exact (spOk_start_iff (.inr rfl)).2 ⟨rfl, hpix, ⟨rfl, rfl⟩, hsum⟩

end

/-- Every move of the SP keeps its invariant. -/
theorem SpMove.keeps_spOk {s : State} {r : SpRegs} (hm : SpMove s r) (hw : s.cfg.wf = true) (h : SpOk s.cfg s.sp) :
    SpOk s.cfg r := by
  have hgw := Cfg.wf_gridW hw
  have hgh := Cfg.wf_gridH hw
  have hsc := Cfg.wf_scale hw
  cases hm with
  | hold => exact h
  | start hp hd =>
    obtain ⟨-, hrest⟩ := (spOk_start_iff (.inl hp)).1 h
    exact (spOk_start_iff (.inr rfl)).2 ⟨rfl, hrest⟩
  | openFrame hp =>
    obtain ⟨-, -, hcell, hsum⟩ := (spOk_start_iff (.inr hp)).1 h
    exact (spOk_render_iff (by rfl)).2 ⟨by simp, ⟨Nat.mul_pos hgw hsc, Nat.mul_pos hgh hsc⟩, hcell, hsum⟩
  | readPixel hp =>
    obtain ⟨-, hrest⟩ := (spOk_render_iff hp).1 h
    exact (spOk_render_iff (by exact hp)).2 ⟨by simp, hrest⟩
  | sendByte0 hp =>
    obtain ⟨-, hrest⟩ := (spOk_render_iff hp).1 h
    exact (spOk_render_iff (by exact hp)).2 ⟨by simp, hrest⟩
  | sendByte1 hp => exact nextPixelRule_keeps_spOk hgw hgh hp h
  | readVisit hp hs =>
    obtain ⟨-, hpix, hcell, hvis⟩ := (spOk_evolve_iff hp).1 h
    exact (spOk_evolve_iff (by exact hp)).2 ⟨by simp, hpix, hcell, fun _ => hvis.1 (by simp [hs]), by simp⟩
  | takeVisit hp hs => exact accumulateRule_keeps_spOk _ hp hs h
  | writeCell hp => exact writeCell_keeps_spOk hp h
  | loadCell hp =>
    obtain ⟨-, hrest⟩ := (spOk_transition_iff hp).1 h
    exact (spOk_transition_iff (by exact hp)).2 ⟨.inr rfl, hrest⟩
  | copyCell hp => exact copyCell_keeps_spOk hp h

/-- The SP leaves BRINGUP only in a cycle with done = 1 (R202). -/
theorem SpMove.done_of_leaves_bringup {s : State} {r : SpRegs} (hm : SpMove s r) (h : s.sp.phase ≠ spBRINGUP → s.done = true)
    (hr : r.phase ≠ spBRINGUP) : s.done = true := by
  cases hm with
  | hold => exact h hr
  | start _ hd => exact hd
  | openFrame hp | readPixel hp | sendByte0 hp | sendByte1 hp | readVisit hp | takeVisit hp | writeCell hp | loadCell hp
  | copyCell hp => exact h (by simp [hp])

/-! The whole core. -/

/-- The reset state of a well-formed build meets the invariant (R61). -/
theorem inv_init {c : Cfg} (hw : c.wf = true) (inputs : List Input) (ext : List Req) (tick : Nat) :
    Inv (State.init c inputs ext tick) := by
  have hpe : PeOk c PeRegs.reset := (peOk_idle_iff (Cfg.wf_tSetup hw) rfl).2 ⟨rfl, rfl, rfl, rfl⟩
  have his : IsOk c IsRegs.reset := (isOk_reset_iff rfl).2 ⟨Cfg.wf_tReset hw, rfl, rfl⟩
  have hsp : SpOk c SpRegs.reset := (spOk_start_iff (.inl rfl)).2 ⟨rfl, ⟨rfl, rfl⟩, ⟨rfl, rfl⟩, rfl, rfl⟩
  exact ⟨hw, Memory.atReset_wf (Cfg.wf_seed hw) tick, hpe, his, hsp, fun h => absurd rfl h⟩

/-- A step that answers a next state keeps the invariant. -/
theorem step_keeps_inv {s t : State} (h : Inv s) (hst : step s = .next t) : Inv t := by
  obtain ⟨hw, hmem, hpe, his, hsp, hdone⟩ := h
  obtain ⟨-, ⟨-, rfl⟩ | ⟨-, j, k, u, hj, hk, hu, hcfg, hpe', his', hsp', hmem', -, -, -⟩⟩ := step_next hst
  · exact inv_init hw _ _ _
  · obtain ⟨hmove, hwf⟩ := exec_spRow_next hk hu hmem
    have hdone' : t.sp.phase ≠ spBRINGUP → t.done = true := by
      intro hph
      have hd : s.done = true := hmove.done_of_leaves_bringup hdone (hsp' ▸ hph)
      rw [State.done, his', isRule_of_done hd]
      exact hd
    refine ⟨?_, ?_, ?_, ?_, ?_, hdone'⟩ <;> rw [hcfg]
    · exact hw
    · rw [hmem']
      exact hwf
    · rw [hpe']
      exact peRule_keeps_peOk (Cfg.wf_tSetup hw) (Cfg.wf_tActive hw) _ _ hpe
    · rw [his']
      exact isRule_keeps_isOk (Cfg.wf_tRelease hw) his
    · rw [hsp']
      exact hmove.keeps_spOk hw hsp

/-- A state whose Cfg breaks R10 has no machine (R9, R262). -/
theorem step_of_illFormed {s : State} (h : s.cfg.wf = false) : step s = .refused .illFormedCfg := by simp [step, h]

end Sys2Proof.Machine

namespace Sys2Proof.Proofs

open Sys2Proof.Machine Sys2Proof.Safety

/-- Settles O37: each machine's cycle keeps its own part of the invariant, rst leaves the reset state, and the SP leaves BRINGUP only
under a done that stays. -/
theorem invariantKeptByEveryStep : Obligations.InvariantKeptByEveryStep := fun _ _ => step_keeps_inv

/-- Settles O4: R10's conditions that Cfg's types leave open are those of Cfg.wf, and the others hold of every Cfg. -/
theorem illFormedCfgHasNoMachine : Obligations.IllFormedCfgHasNoMachine := by
  refine ⟨fun c => ?_, fun _ => step_of_illFormed⟩
  have hbytes : (∀ e ∈ c.initTable, e.cmd.toNat ≤ 255 ∧ ∀ p ∈ e.params, p.toNat ≤ 255)
      ∧ c.cmdNop.toNat ≤ 255 ∧ c.cmdRamwr.toNat ≤ 255 :=
    ⟨fun e _ => ⟨Byte.toNat_le _, fun p _ => Byte.toNat_le p⟩, Byte.toNat_le _, Byte.toNat_le _⟩
  constructor
  · intro h
    obtain ⟨⟨hw, hh, hs⟩, htimes, hseed, hsent⟩ := Cfg.wf_iff.1 h
    exact ⟨⟨hw, hh, hs, rfl, rfl⟩, htimes, hseed, hsent, hbytes⟩
  · rintro ⟨⟨hw, hh, hs, -, -⟩, htimes, hseed, hsent, -⟩
    exact Cfg.wf_iff.2 ⟨⟨hw, hh, hs⟩, htimes, hseed, hsent⟩

end Sys2Proof.Proofs
end

section
/-! SUPPORT. The family of 10_state.md: the reset state, the range each counter of the invariant stays in and the width that holds it, and
the multiplexer's choice without an external producer. -/

namespace Sys2Proof

theorem Cfg.wf_dispCols {c : Cfg} (h : c.wf = true) : 1 ≤ c.dispCols := Nat.mul_pos (Cfg.wf_gridW h) (Cfg.wf_scale h)
theorem Cfg.wf_dispPages {c : Cfg} (h : c.wf = true) : 1 ≤ c.dispPages := Nat.mul_pos (Cfg.wf_gridH h) (Cfg.wf_scale h)

end Sys2Proof

namespace Sys2Proof.Machine

open Sys2Proof.Safety

/-- A value inside a register's range fits its width (D26). -/
theorem lt_two_pow_regWidth {n v : Nat} (h : v < n) : v < 2 ^ regWidth n := h.trans_le (le_two_pow_regWidth n)

variable {c : Cfg}

/-- pe_pcnt counts the cycles of the phase it is in (R41). -/
theorem pcnt_lt_of_peOk {p : PeRegs} (h : PeOk c p) : p.pcnt < max c.tSetup c.tActive := by
  obtain ⟨hsetup, hactive, -⟩ := h
  cases hph : p.ph with
  | setup => exact lt_max_of_lt_left (hsetup hph)
  | active => exact lt_max_of_lt_right (hactive hph)

/-- is_cnt counts the reset pulse in RESET and the release wait in WAIT, and is 0 in every other state (R47). -/
theorem cnt_lt_of_isOk {r : IsRegs} (hw : c.wf = true) (h : IsOk c r) : r.cnt < max c.tReset c.tRelease := by
  obtain ⟨-, hreset, hwait, hother, -⟩ := h
  by_cases h0 : r.state = isRESET
  · exact lt_max_of_lt_left (hreset h0).1
  by_cases h1 : r.state = isWAIT
  · exact lt_max_of_lt_right (hwait h1)
  · rw [hother h0 h1]
    exact lt_max_of_lt_left (Cfg.wf_tReset hw)

/-- is_e is an entry index or the table's length (R48). -/
theorem e_lt_of_isOk {r : IsRegs} (h : IsOk c r) : r.e < c.initTable.length + 1 := by
  obtain ⟨-, -, -, -, he, -⟩ := h
  exact Nat.lt_succ_of_le he

/-- is_p is below the current entry's parameter count in PARAM, and 0 in every other state, also where PMAX = 0 (R49). -/
theorem p_lt_of_isOk {r : IsRegs} (h : IsOk c r) : r.p < 2 ^ paramWidth c := by
  by_cases hst : r.state = isPARAM
  · obtain ⟨-, he, -, hp⟩ := (isOk_param_iff hst).1 h
    have hmax := params_le_maxParams (List.mem_of_getElem? (getElem?_romEntry he))
    exact lt_two_pow_regWidth (hp.trans_le hmax)
  · obtain ⟨-, -, -, -, -, -, -, hzero, -⟩ := h
    rw [hzero hst]
    exact Nat.two_pow_pos _

/-- sp_col and sp_pag are a pixel of the display in RENDER, and 0 in every other phase (R52). -/
theorem pixel_lt_of_spOk {r : SpRegs} (hw : c.wf = true) (h : SpOk c r) : r.col < c.dispCols ∧ r.pag < c.dispPages := by
  obtain ⟨-, hrender, hother, -⟩ := h
  by_cases hp : r.phase = spRENDER
  · exact hrender hp
  · obtain ⟨hcol, hpag⟩ := hother hp
    exact ⟨hcol.trans_lt (Cfg.wf_dispCols hw), hpag.trans_lt (Cfg.wf_dispPages hw)⟩

/-- sp_cx and sp_cy are a cell of the grid in EVOLVE and TRANSITION, and 0 in every other phase (R53). -/
theorem cell_lt_of_spOk {r : SpRegs} (hw : c.wf = true) (h : SpOk c r) : r.cx < c.gridW ∧ r.cy < c.gridH := by
  obtain ⟨-, -, -, hscan, hother, -⟩ := h
  by_cases hp : r.phase = spEVOLVE ∨ r.phase = spTRANSITION
  · exact hscan hp
  · obtain ⟨he, ht⟩ := not_or.1 hp
    obtain ⟨hx, hy⟩ := hother he ht
    exact ⟨hx.trans_lt (Cfg.wf_gridW hw), hy.trans_lt (Cfg.wf_gridH hw)⟩

/-- Before done the multiplexer selects the IS (R36). -/
theorem selected_of_not_done {s : State} (he : s.extReqs = []) (hd : s.done = false) : s.selected = .initSequencer := by
  simp [State.selected, he, hd]

/-- From done on the multiplexer selects the SP (R36). -/
theorem selected_of_done {s : State} (he : s.extReqs = []) (hd : s.done = true) : s.selected = .pipeline := by
  simp [State.selected, he, hd]

end Sys2Proof.Machine

namespace Sys2Proof.Proofs

open Sys2Proof.Machine Sys2Proof.Safety

/-- Settles O45: each counter is inside a range, and its width is the one that holds the range. -/
theorem registersFitTheirWidths : Obligations.RegistersFitTheirWidths := by
  rintro s ⟨hw, -, hpe, his, hsp, -⟩
  obtain ⟨hcol, hpag⟩ := pixel_lt_of_spOk hw hsp
  obtain ⟨hcx, hcy⟩ := cell_lt_of_spOk hw hsp
  exact ⟨lt_two_pow_regWidth (pcnt_lt_of_peOk hpe), lt_two_pow_regWidth (cnt_lt_of_isOk hw his),
    lt_two_pow_regWidth (e_lt_of_isOk his), p_lt_of_isOk his, lt_two_pow_regWidth hcol, lt_two_pow_regWidth hpag,
    lt_two_pow_regWidth hcx, lt_two_pow_regWidth hcy⟩

/-- Settles O1: registers, cur's cells and outputs are those of the reset values; nxt is drawn bit by bit, one for each address. -/
theorem resetStateIsTheSummary : Obligations.ResetStateIsTheSummary := by
  refine ⟨fun c inputs ext tick => ⟨rfl, rfl, rfl, rfl, ?_, rfl, rfl, rfl, rfl, rfl, rfl, rfl⟩, rfl⟩
  show ((List.range c.cellCount).map (Config.drawNxtCell tick)).length = c.cellCount
  rw [List.length_map, List.length_range]

/-- Settles O2: State.reset is the reset state of one well-formed build. -/
theorem invariantHoldsAfterReset : Obligations.InvariantHoldsAfterReset :=
  ⟨fun _ inputs ext tick hw => inv_init hw inputs ext tick, inv_init Config.build_wf [] [] 0⟩

/-- Settles O13: the port, the transfers and the reset line follow the multiplexer's choice, and done alone makes it. -/
theorem doneSelectsTheProducer : Obligations.DoneSelectsTheProducer := by
  intro s he
  constructor
  · intro hd
    have hsel := selected_of_not_done he hd
    simp [State.reqValid, State.reqLines, State.isFire, State.spFire, State.lcdRstN, hsel, hd]
  · intro hd
    have hsel := selected_of_done he hd
    simp [State.reqValid, State.reqLines, State.isFire, State.spFire, State.lcdRstN, hsel, hd]

end Sys2Proof.Proofs
end

section
/-! SUPPORT. The family of 20_memory.md: which port a row asks a bank for, what comes of it when the bank refuses, and what each phase
leaves of the two banks. -/

namespace Sys2Proof.Machine

/-- A read of an address the bank does not have (R76). -/
theorem Bank.clock_memRead_outOfRange {b : Bank} {a : Nat} (h : b.cells.length ≤ a) :
    b.clock (.memRead a) = .error .addressOutOfRange := (Bank.clock_outOfRange false h).1

/-- A write to an address the bank does not have (R76). -/
theorem Bank.clock_memWrite_outOfRange {b : Bank} {a : Nat} (v : Bool) (h : b.cells.length ≤ a) :
    b.clock (.memWrite a v) = .error .addressOutOfRange := (Bank.clock_outOfRange v h).2

section
variable {s : State} {r : SpRegs} {cur nxt : BankPorts} {e : Refusal}

/-- A refusal of the current bank is the row's outcome, whatever is asked of the next bank (R262). -/
theorem spCommit_of_cur_error (h : s.mem.cur.clock cur = .error e) : spCommit s r cur nxt = .refused e := by
  simp [spCommit, h]

/-- A refusal of the next bank is the outcome of a row that leaves the current bank alone (R262). -/
theorem spCommit_of_nxt_error (h : s.mem.nxt.clock nxt = .error e) : spCommit s r .quiet nxt = .refused e := by
  simp [spCommit, h]

end

/-- What the SP's row can ask of the current and of the next bank in a cycle: nothing, or one access that its phase owns (R74, R210). -/
inductive SpAccess (s : State) : BankPorts → BankPorts → Prop where
  | none : SpAccess s .quiet .quiet
  | readPixel (a : Nat) (hp : s.sp.phase = spRENDER) : SpAccess s (.memRead a) .quiet
  | readVisit (a : Nat) (hp : s.sp.phase = spEVOLVE) : SpAccess s (.memRead a) .quiet
  | writeCell (a : Nat) (v : Bool) (hp : s.sp.phase = spEVOLVE) : SpAccess s .quiet (.memWrite a v)
  | loadCell (a : Nat) (hp : s.sp.phase = spTRANSITION) : SpAccess s .quiet (.memRead a)
  | copyCell (a : Nat) (v : Bool) (hp : s.sp.phase = spTRANSITION) : SpAccess s (.memWrite a v) .quiet

/-- Every SP row is a commit of one of these accesses. -/
theorem exec_spRow_access {s : State} {k : Instr} (h : decodeSpState (s.sp.phase ++ s.sp.sub) = .ok k) :
    ∃ r cur nxt, exec k s = spCommit s r cur nxt ∧ SpAccess s cur nxt := by
  rcases decodeSp_cases h with ⟨-, rfl⟩ | ⟨-, rfl⟩ | ⟨hc, rfl⟩ | ⟨-, rfl⟩ | ⟨-, rfl⟩ | ⟨hc, rfl⟩ | ⟨-, rfl⟩ | ⟨hc, rfl⟩
    | ⟨hc, rfl⟩ | ⟨hc, rfl⟩
  · exact ⟨_, _, _, rfl, .none⟩
  · exact ⟨_, _, _, rfl, .none⟩
  · exact ⟨_, _, _, rfl, .readPixel _ (spCode_fields (x := spRENDER) (y := sub0) hc).1⟩
  · exact ⟨_, _, _, rfl, .none⟩
  · exact ⟨_, _, _, rfl, .none⟩
  · exact ⟨_, _, _, rfl, .readVisit _ (spCode_fields (x := spEVOLVE) (y := sub0) hc).1⟩
  · exact ⟨_, _, _, rfl, .none⟩
  · exact ⟨_, _, _, rfl, .writeCell _ _ (spCode_fields (x := spEVOLVE) (y := sub2) hc).1⟩
  · exact ⟨_, _, _, rfl, .loadCell _ (spCode_fields (x := spTRANSITION) (y := sub0) hc).1⟩
  · exact ⟨_, _, _, rfl, .copyCell _ _ (spCode_fields (x := spTRANSITION) (y := sub1) hc).1⟩

/-- The banks after a cycle without rst are the banks clocked with an access that the phase owns (R74). -/
theorem step_mem {s t : State} (h : step s = .next t) (hr : s.rst = false) :
    ∃ cur nxt, SpAccess s cur nxt ∧ s.mem.cur.clock cur = .ok t.mem.cur ∧ s.mem.nxt.clock nxt = .ok t.mem.nxt := by
  obtain ⟨-, ⟨hr', -⟩ | ⟨-, _, k, u, -, hk, hu, -, -, -, -, hmem, -⟩⟩ := step_next h
  · simp [hr] at hr'
  · obtain ⟨r, cur, nxt, hrow, hacc⟩ := exec_spRow_access hk
    obtain ⟨c, n, hc, hn, rfl⟩ := spCommit_next (hrow ▸ hu)
    rw [hmem]
    exact ⟨cur, nxt, hacc, hc, hn⟩

/-- What a phase leaves of the two banks (R74, R210). -/
def PhaseKeeps (phase : BitVec 3) (m m' : Memory) : Prop :=
  (phase = spBRINGUP ∨ phase = spBEGIN → m' = m)
    ∧ (phase = spRENDER → m'.cur.cells = m.cur.cells ∧ m'.nxt = m.nxt)
    ∧ (phase = spEVOLVE → m'.cur.cells = m.cur.cells ∧ m'.nxt.rdata = m.nxt.rdata)
    ∧ (phase = spTRANSITION → m'.nxt.cells = m.nxt.cells ∧ m'.cur.rdata = m.cur.rdata)

/-- A read keeps the cells of its bank, a write keeps the read register, and a bank without an access keeps both. -/
theorem SpAccess.phaseKeeps {s : State} {cur nxt : BankPorts} {m : Memory} (ha : SpAccess s cur nxt)
    (hc : s.mem.cur.clock cur = .ok m.cur) (hn : s.mem.nxt.clock nxt = .ok m.nxt) : PhaseKeeps s.sp.phase s.mem m := by
  cases ha with
  | none =>
    have hcur := Bank.clock_quiet_ok hc
    have hnxt := Bank.clock_quiet_ok hn
    have hm : m = s.mem := congr (congrArg Memory.mk hcur) hnxt
    simp [PhaseKeeps, hm]
  | readPixel a hp | readVisit a hp =>
    have hcells := (Bank.clock_memRead_ok hc).1
    simp [PhaseKeeps, hp, hcells, Bank.clock_quiet_ok hn]
  | writeCell a v hp =>
    have hrdata := (Bank.clock_memWrite_ok hn).1
    simp [PhaseKeeps, hp, hrdata, Bank.clock_quiet_ok hc]
  | loadCell a hp =>
    have hcells := (Bank.clock_memRead_ok hn).1
    simp [PhaseKeeps, hp, hcells, Bank.clock_quiet_ok hc]
  | copyCell a v hp =>
    have hrdata := (Bank.clock_memWrite_ok hc).1
    simp [PhaseKeeps, hp, hrdata, Bank.clock_quiet_ok hn]

end Sys2Proof.Machine

namespace Sys2Proof.Proofs

open Sys2Proof.Machine Sys2Proof.Safety

/-- Settles O29: a bank of N cells refuses an address at or above N, and the commit hands the refusal on. -/
theorem bankPortsRefuse : Obligations.BankPortsRefuse := by
  refine ⟨fun _ _ _ _ => rfl, fun s hwf => ?_⟩
  obtain ⟨hcur, hnxt⟩ := Memory.wf_iff.1 hwf
  rw [← hcur]
  refine ⟨fun h => spCommit_of_cur_error (Bank.clock_memRead_outOfRange h),
    fun h => spCommit_of_cur_error (Bank.clock_memRead_outOfRange h), fun h => ?_⟩
  have h' : s.mem.nxt.cells.length ≤ cellAddr s.cfg s.sp.cx s.sp.cy := by rwa [hnxt, ← hcur]
  exact ⟨spCommit_of_nxt_error (Bank.clock_memWrite_outOfRange _ h'),
    spCommit_of_nxt_error (Bank.clock_memRead_outOfRange h'),
    spCommit_of_cur_error (Bank.clock_memWrite_outOfRange _ h)⟩

/-- Settles O40: the step's one access is of its phase, and keeps what the phase does not own. -/
theorem phasesOwnTheBanks : Obligations.PhasesOwnTheBanks := by
  intro s t hst hr
  obtain ⟨cur, nxt, hacc, hc, hn⟩ := step_mem hst hr
  exact hacc.phaseKeeps hc hn

end Sys2Proof.Proofs
end

section
/-! SUPPORT. The family of 30_encoding.md. The formats: what each decoder makes of the item of each instruction, which items have a meaning,
and the codes for which a step has none. The serial frames: every state of the invariant has a next one, what a run of the core leaves of
the build, the inputs and the PE's registers, and a request's bit slots and response frames in the PE's trace. -/

namespace Sys2Proof

variable {nop : Byte} {i : Instr}

/-- A packed request decodes to the operation it is (R101, R103). -/
theorem decodeReq_pack (r : Req) : decodeReq r.pack = r.toInstr := by rw [decodeReq, Req.unpack_pack]

/-- A REQ word is the item of the operation it decodes to. -/
theorem encode_decodeReq (nop : Byte) (w : BitVec 13) : encode nop (decodeReq w) = .req w := by
  rw [decodeReq, encode_toInstr, Req.pack_unpack]

/-- Every request is a legal operation (R103, R113). -/
theorem Req.toInstr_wf (nop : Byte) (r : Req) : r.toInstr.wf nop = true := by
  obtain ⟨d, m, n⟩ := r
  cases m <;> rfl

/-- Bit 8 set is a command, with the word's data and rlen fields (R102, R103). -/
theorem decodeReq_of_command {w : BitVec 13} (h : w.getLsbD 8 = true) :
    decodeReq w = .txnCmd (w.extractLsb' 0 8) (w.extractLsb' 9 4) := if_pos h

/-- Bit 8 clear is a parameter, with the word's data and rlen fields (R102, R103). -/
theorem decodeReq_of_parameter {w : BitVec 13} (h : w.getLsbD 8 = false) :
    decodeReq w = .txnParam (w.extractLsb' 0 8) (w.extractLsb' 9 4) := if_neg (Bool.eq_false_iff.1 h)

@[simp] theorem decodeInit_sentinel (nop : Byte) : decodeInit nop [nop] = .ok .initNop := by simp [decodeInit]

@[simp] theorem decodeInit_sentinel_params (nop p : Byte) (ps : List Byte) :
    decodeInit nop (nop :: p :: ps) = .error .sentinelWithParams := by simp [decodeInit]

theorem decodeInit_command {cmd : Byte} (h : cmd ≠ nop) (params : List Byte) :
    decodeInit nop (cmd :: params) = .ok (.initCmd cmd params) := by simp [decodeInit, h]

/-- The INIT items with a meaning: the sentinel alone, and any other command with its parameters (R104, R113). -/
theorem decodeInit_cases {bytes : List Byte} (h : decodeInit nop bytes = .ok i) :
    (bytes = [nop] ∧ i = .initNop) ∨ ∃ cmd params, cmd ≠ nop ∧ bytes = cmd :: params ∧ i = .initCmd cmd params := by
  cases bytes with
  | nil => cases h
  | cons cmd params =>
    by_cases hc : cmd = nop
    · subst hc
      cases params with
      | nil => exact .inl ⟨rfl, by simpa [eq_comm] using h⟩
      | cons p ps => simp at h
    · rw [decodeInit_command hc] at h
      cases h
      exact .inr ⟨cmd, params, hc, rfl, rfl⟩

/-- Each of the four PESTATE codes is the item of the row it decodes to, a legal one (R112, R113). -/
theorem encode_decodePeState (nop : Byte) (c : BitVec 2) :
    encode nop (decodePeState c) = .peState c ∧ (decodePeState c).wf nop = true := by
  rcases Machine.peState_cases c with rfl | rfl | rfl | rfl <;> exact ⟨rfl, rfl⟩

/-- A listed ISSTATE code is the item of the row it decodes to, a legal one (R112). -/
theorem encode_of_decodeIsState {c : BitVec 3} (h : decodeIsState c = .ok i) : encode nop i = .isState c ∧ i.wf nop = true := by
  unfold decodeIsState at h
  split_ifs at h <;> cases h <;> exact ⟨by simp only [encode, *], rfl⟩

/-- A listed SPSTATE code is the item of the row it decodes to, a legal one (R112). -/
theorem encode_of_decodeSpState {c : BitVec 5} (h : decodeSpState c = .ok i) : encode nop i = .spState c ∧ i.wf nop = true := by
  rcases Machine.decodeSp_cases h with ⟨rfl, rfl⟩ | ⟨rfl, rfl⟩ | ⟨rfl, rfl⟩ | ⟨rfl, rfl⟩ | ⟨rfl, rfl⟩ | ⟨rfl, rfl⟩ | ⟨rfl, rfl⟩
    | ⟨rfl, rfl⟩ | ⟨rfl, rfl⟩ | ⟨rfl, rfl⟩ <;> exact ⟨rfl, rfl⟩

/-- is_state 110 and 111 are no codes of R46. -/
theorem decodeIsState_unlisted {c : BitVec 3} (h : c = 0b110#3 ∨ c = 0b111#3) :
    decodeIsState c = .error .unreachableIsState := by
  rcases h with rfl | rfl <;> rfl

end Sys2Proof

namespace Sys2Proof.Machine

open Sys2Proof.Safety

/-- The ten pairs of sp_phase and sp_sub that R112 lists are the only ones with a row. -/
theorem spPair_of_listed {x : BitVec 3} {y : BitVec 2} (h : (decodeSpState (x ++ y)).isOk = true) :
    (x, y) ∈ [(spBRINGUP, sub0), (spBEGIN, sub0), (spRENDER, sub0), (spRENDER, sub1), (spRENDER, sub2),
      (spEVOLVE, sub0), (spEVOLVE, sub1), (spEVOLVE, sub2), (spTRANSITION, sub0), (spTRANSITION, sub1)] := by
  revert x y
  decide

/-- A cycle of a well-formed build without rst in which the IS or the SP holds a code without a row (R113, R262). -/
theorem step_of_unlisted {s : State} (hw : s.cfg.wf = true) (hr : s.rst = false)
    (h : ∀ j k, decodeIsState s.is.state = .ok j → decodeSpState (s.sp.phase ++ s.sp.sub) ≠ .ok k) :
    step s = .refused .unreachableState := by
  cases hf : fetchCycle s with
  | ok rows =>
    obtain ⟨-, hj, hk⟩ := fetchCycle_ok.1 hf
    exact absurd hk (h _ _ hj)
  | error r => simp [step, hw, hr, hf, fetchCycle_error hf]

/-! Progress. -/

/-- In a state of the invariant no bank refuses the SP's row: every address it computes is in the bank (R76). -/
theorem exec_spRow_answers {s : State} {k : Instr} (hw : s.cfg.wf = true) (hm : Memory.wf s.cfg.cellCount s.mem = true)
    (hsp : SpOk s.cfg s.sp) (h : decodeSpState (s.sp.phase ++ s.sp.sub) = .ok k) : ∃ u, exec k s = .next u := by
  obtain ⟨hcur, hnxt⟩ := Memory.wf_iff.1 hm
  obtain ⟨hcol, hpag⟩ := pixel_lt_of_spOk hw hsp
  obtain ⟨hcx, hcy⟩ := cell_lt_of_spOk hw hsp
  have hcell : cellAddr s.cfg s.sp.cx s.sp.cy < s.cfg.cellCount := cellAddr_lt hcx hcy
  rcases decodeSp_cases h with ⟨-, rfl⟩ | ⟨-, rfl⟩ | ⟨-, rfl⟩ | ⟨-, rfl⟩ | ⟨-, rfl⟩ | ⟨hc, rfl⟩ | ⟨-, rfl⟩ | ⟨-, rfl⟩
    | ⟨-, rfl⟩ | ⟨-, rfl⟩
  · exact ⟨_, rfl⟩
  · exact ⟨_, rfl⟩
  · exact ⟨_, spCommit_of_ok (Bank.clock_memRead (by rw [hcur]; exact pixelAddr_lt hcol hpag)) (Bank.clock_quiet _)⟩
  · exact ⟨_, rfl⟩
  · exact ⟨_, rfl⟩
  · obtain ⟨hp, hs⟩ := spCode_fields (x := spEVOLVE) (y := sub0) hc
    obtain ⟨-, -, -, hvisit, -⟩ := (spOk_evolve_iff hp).1 hsp
    have hv : s.sp.v.toNat ≤ 8 := (hvisit (by simp [hs])).1
    exact ⟨_, spCommit_of_ok (Bank.clock_memRead (by rw [hcur]; exact visitAddr_lt hcx hcy hv)) (Bank.clock_quiet _)⟩
  · exact ⟨_, rfl⟩
  · exact ⟨_, spCommit_of_ok (Bank.clock_quiet _) (Bank.clock_memWrite _ (by rwa [hnxt]))⟩
  · exact ⟨_, spCommit_of_ok (Bank.clock_quiet _) (Bank.clock_memRead (by rwa [hnxt]))⟩
  · exact ⟨_, spCommit_of_ok (Bank.clock_memWrite _ (by rwa [hcur])) (Bank.clock_quiet _)⟩

/-- Every listed is_state has a row (R112). -/
theorem decodeIsState_of_listed {x : BitVec 3} (h : x.toNat ≤ 5) : ∃ j, decodeIsState x = .ok j := by
  rcases isState_cases h with rfl | rfl | rfl | rfl | rfl | rfl <;> exact ⟨_, rfl⟩

/-- Every listed pair of sp_phase and sp_sub has a row (R112). -/
theorem decodeSpState_of_listed {r : SpRegs} (h : SpListed r) : ∃ k, decodeSpState (r.phase ++ r.sub) = .ok k := by
  cases hk : decodeSpState (r.phase ++ r.sub) with
  | ok k => exact ⟨k, rfl⟩
  | error e => simp [SpListed, hk, Except.isOk, Except.toBool] at h

/-- Every state of the invariant has a next state. -/
theorem step_of_inv {s : State} (h : Inv s) : ∃ t, step s = .next t := by
  obtain ⟨hw, hm, -, ⟨his, -⟩, hsp, -⟩ := h
  cases hr : s.rst with
  | true => exact ⟨s.afterRst, by simp [step, hw, hr]⟩
  | false =>
    obtain ⟨j, hj⟩ := decodeIsState_of_listed his
    obtain ⟨k, hk⟩ := decodeSpState_of_listed hsp.1
    obtain ⟨u, hu⟩ := exec_spRow_answers hw hm hsp hk
    exact ⟨_, by rw [step_of_fetch hw hr hj hk, hu, joinCycle_next]⟩

end Sys2Proof.Machine

namespace Sys2Proof.Safety

open Sys2Proof.Machine

/-! Runs of the core. -/

section
variable {s t u : State}

@[simp] theorem runFor_zero (s : State) : runFor 0 s = .next s := rfl

/-- A run begins with a step. -/
theorem runFor_succ {k : Nat} (h : step s = .next t) : runFor (k + 1) s = runFor k t := by
  have h' : core.step s = .next t := h
  simp only [runFor, Host.Core.run, h']
  rfl

/-- A run ends where a step refuses. -/
theorem runFor_refused {k : Nat} {r : Refusal} (h : step s = .refused r) : runFor (k + 1) s = .refused r := by
  have h' : core.step s = .refused r := h
  simp only [runFor, Host.Core.run, h']
  rfl

@[simp] theorem runFor_one (s : State) : runFor 1 s = step s := by
  cases h : step s with
  | next t => exact runFor_succ h
  | fault f => cases f
  | refused r => exact runFor_refused h

/-- A run that ends in a state began with a step to one. -/
theorem runFor_succ_next {k : Nat} : runFor (k + 1) s = .next t ↔ ∃ u, step s = .next u ∧ runFor k u = .next t := by
  cases h : step s with
  | next u => simp [runFor_succ h]
  | fault f => cases f
  | refused r => simp [runFor_refused h]

/-- Two runs one after the other. -/
theorem runFor_add_next {a b : Nat} : runFor (a + b) s = .next t ↔ ∃ u, runFor a s = .next u ∧ runFor b u = .next t := by
  induction a generalizing s with
  | zero => simp
  | succ a ih =>
    rw [Nat.add_right_comm]
    simp only [runFor_succ_next, ih]
    constructor
    · rintro ⟨v, hv, u, hu, ht⟩
      exact ⟨u, ⟨v, hv, hu⟩, ht⟩
    · rintro ⟨u, ⟨v, hv, hu⟩, ht⟩
      exact ⟨v, hv, u, hu, ht⟩

/-- From a state of the invariant a run of any length ends in one. -/
theorem runFor_of_inv (h : Inv s) (n : Nat) : ∃ t, runFor n s = .next t ∧ Inv t := by
  induction n generalizing s with
  | zero => exact ⟨s, rfl, h⟩
  | succ n ih =>
    obtain ⟨u, hu⟩ := step_of_inv h
    obtain ⟨t, ht, hinv⟩ := ih (step_keeps_inv h hu)
    exact ⟨t, by rw [runFor_succ hu, ht], hinv⟩

/-- What every run leaves: the build, and the inputs and the draws of its cycles used up. -/
theorem runFor_frame {n : Nat} (h : runFor n s = .next t) :
    t.cfg = s.cfg ∧ t.inputs = s.inputs.drop n ∧ t.tick = s.tick + n := by
  induction n generalizing s with
  | zero => cases h; exact ⟨rfl, rfl, rfl⟩
  | succ n ih =>
    obtain ⟨u, hu, ht⟩ := runFor_succ_next.1 h
    obtain ⟨hc, hi, hk⟩ := ih ht
    obtain ⟨hi', hk'⟩ := step_inputs hu
    refine ⟨hc.trans (step_cfg hu), ?_, by omega⟩
    rw [hi, hi', ← List.drop_one, List.drop_drop, Nat.add_comm]

/-- After a run, what was n + k cycles away is k cycles away. -/
theorem runFor_misoAt {n : Nat} (h : runFor n s = .next t) (k : Nat) : t.misoAt k = s.misoAt (n + k) := by
  obtain ⟨-, hi, ht⟩ := runFor_frame h
  simp only [State.misoAt, hi, ht, List.getElem?_drop, Nat.add_assoc]

/-- rst stays low for the rest of the cycles. -/
theorem runFor_noRst {a b : Nat} (h : runFor a s = .next t) (hr : NoRst (a + b) s) : NoRst b t := by
  obtain ⟨-, hi, -⟩ := runFor_frame h
  intro i hmem
  rw [hi, ← Nat.add_sub_cancel_left (n := a) (m := b), ← List.drop_take] at hmem
  exact hr i (List.mem_of_mem_drop hmem)

theorem noRst_mono {a b : Nat} (h : a ≤ b) (hr : NoRst b s) : NoRst a s := fun i hi =>
  hr i (List.take_subset_take_left _ h hi)

theorem rst_of_noRst {n : Nat} (h : NoRst (n + 1) s) : s.rst = false := by
  unfold State.rst
  split
  · rfl
  · exact h _ (by simp [*])

/-- While the PE is busy, a run moves its registers along their trace, whatever the port offers (R143). -/
theorem runFor_pe {n : Nat} (h : runFor n s = .next t) (hr : NoRst n s)
    (hb : ∀ k < n, (peTrace s.cfg s.misoAt s.pe k).state ≠ peIDLE) : t.pe = peTrace s.cfg s.misoAt s.pe n := by
  induction n generalizing t with
  | zero => cases h; rfl
  | succ n ih =>
    obtain ⟨u, hu, hlast⟩ := runFor_add_next.1 h
    rw [runFor_one] at hlast
    have hpe : u.pe = peTrace s.cfg s.misoAt s.pe n :=
      ih hu (noRst_mono (Nat.le_succ n) hr) fun k hk => hb k (Nat.lt_succ_of_lt hk)
    have hmiso : u.miso = s.misoAt n := runFor_misoAt hu 0
    have hbusy : u.pe.state ≠ peIDLE := hpe ▸ hb n (Nat.lt_succ_self n)
    rw [step_pe hlast (rst_of_noRst (runFor_noRst hu hr)), peRule_port hbusy none, (runFor_frame hu).1, hmiso, hpe, peTrace]

end

/-- A PE that is not in IDLE has not been there since its trace began: with nothing offered it stays there. -/
theorem peTrace_busy {c : Cfg} {ms : Nat → Bool} {p : PeRegs} {k n : Nat} (hk : k ≤ n) (h : (peTrace c ms p n).state ≠ peIDLE) :
    (peTrace c ms p k).state ≠ peIDLE := by
  intro hidle
  rw [← Nat.add_sub_cancel' hk, peTrace_add, peTrace_idle hidle] at h
  exact h hidle

/-- From the cycle that accepts a request on, a run moves the PE's registers along the trace of the accepted request, as long as that
is busy (R131, R143). -/
theorem runFor_accepted {s : State} {r : Req} {n : Nat} (hinv : Inv s) (hready : s.reqReady = true) (hport : s.port = some r)
    (hr : NoRst (1 + n) s)
    (hb : (peTrace s.cfg (fun i => s.misoAt (1 + i)) (peIdleRule (some r) s.pe) n).state ≠ peIDLE) :
    ∃ t, runFor (1 + n) s = .next t ∧ t.pe = peTrace s.cfg (fun i => s.misoAt (1 + i)) (peIdleRule (some r) s.pe) n := by
  have hidle : s.pe.state = peIDLE := by simpa [State.reqReady] using hready
  obtain ⟨t, ht, -⟩ := runFor_of_inv hinv (1 + n)
  obtain ⟨u, hu, hrest⟩ := runFor_add_next.1 ht
  have hpe : u.pe = peIdleRule (some r) s.pe := by
    rw [step_pe (runFor_one s ▸ hu) (rst_of_noRst (n := n) (Nat.add_comm 1 n ▸ hr)), hport, peRule_idle hidle]
  have hmiso : u.misoAt = fun i => s.misoAt (1 + i) := funext (runFor_misoAt hu)
  have hcfg : u.cfg = s.cfg := (runFor_frame hu).1
  rw [← hpe, ← hmiso, ← hcfg] at hb ⊢
  exact ⟨t, ht, runFor_pe hrest (runFor_noRst hu hr) fun k hk => peTrace_busy hk.le hb⟩

end Sys2Proof.Safety

namespace Sys2Proof.Machine

open Sys2Proof.Safety

/-! Bit slots and frames of an accepted request. -/

/-- The bit that slot k of a frame carries (R107, R108). -/
theorem toNat_bitIndex {k : Nat} (hk : k < 8) : (7#3 - BitVec.ofNat 3 k).toNat = 7 - k := by
  rw [BitVec.toNat_sub, BitVec.toNat_ofNat]
  simp
  omega

/-- After n samples the first one is in bit n - 1 and the last one in bit 0 (R43, R133). -/
theorem getLsbD_samples (rx : Byte) (sample : Nat → Bool) {n k : Nat} (hn : n ≤ 8) (hk : k < n) :
    (((List.range n).map sample).foldl shiftIn rx).getLsbD (n - 1 - k) = sample k := by
  induction n with
  | zero => omega
  | succ n ih =>
    rw [List.range_succ, List.map_append, List.map_singleton, List.foldl_concat, getLsbD_shiftIn _ _ (by omega)]
    rcases Nat.eq_or_lt_of_le (Nat.le_of_lt_succ hk) with rfl | hlt
    · simp
    · rw [if_neg (by omega), show n + 1 - 1 - k - 1 = n - 1 - k by omega, ih (by omega) hlt]

/-- sclk in cycle j of a bit slot: high in the active phase alone (R106, R130). -/
theorem sclk_inSlot {t : State} {c : Cfg} {j : Nat} (hst : t.pe.state = peTX ∨ t.pe.state = peRX)
    (hph : t.pe.ph = if j < c.tSetup then .setup else .active) : t.sclk = decide (c.tSetup ≤ j) := by
  have hslot : (t.pe.state == peTX || t.pe.state == peRX) = true := by simpa using hst
  rw [State.sclk, hslot, hph]
  by_cases h : j < c.tSetup <;> simp [h, Nat.le_of_not_lt, Nat.not_le_of_lt]

/-- The PE at the start of a response frame, with n bytes left to receive, this one among them (R108, R134). -/
structure AtResponse (n : Nat) (p : PeRegs) : Prop where
  state : p.state = peRX
  ph : p.ph = .setup
  pcnt : p.pcnt = 0
  bit : p.bit = 7#3
  dc : p.dc = false
  rem : p.rem.toNat = n

section
variable {c : Cfg} {ms : Nat → Bool} {p : PeRegs} {r : Req} {n j k : Nat}
variable (hs : 1 ≤ c.tSetup) (ha : 1 ≤ c.tActive)
include hs ha

/-- Cycle j of slot k of an accepted request's frame (R106, R107). -/
theorem peTrace_requestSlot (hk : k < 8) (hj : j < slotCycles c) :
    peTrace c ms (peIdleRule (some r) p) (k * slotCycles c + j)
      = { peIdleRule (some r) p with
          bit := 7#3 - BitVec.ofNat 3 k
          ph := if j < c.tSetup then .setup else .active
          pcnt := if j < c.tSetup then j else j - c.tSetup } := by
  rw [peTrace_add, slotCycles, peTrace_requestBits hs ha rfl rfl rfl rfl hk, peTrace_inSlot hs (.inl rfl) rfl rfl hj]

/-- A request that asks for bytes goes on to its first response frame (R132). -/
theorem atResponse_first (hr : r.rlen ≠ 0#4) :
    AtResponse r.rlen.toNat (peTrace c ms (peIdleRule (some r) p) (byteCycles c)) := by
  rw [byteCycles, slotCycles, peTrace_requestFrame hs ha rfl rfl rfl rfl, if_neg (by exact hr)]
  exact ⟨rfl, rfl, rfl, rfl, rfl, rfl⟩

/-- Cycle j of slot k of a response frame (R106, R108). -/
theorem AtResponse.slot (h : AtResponse n p) (hk : k < 8) (hj : j < slotCycles c) :
    ∃ q, peTrace c ms p (k * slotCycles c + j) = q
      ∧ q.state = peRX ∧ q.dc = false ∧ q.ph = if j < c.tSetup then .setup else .active := by
  obtain ⟨hst, hph, hpc, hb, hdc, -⟩ := h
  rw [peTrace_add, slotCycles, peTrace_responseBits hs ha hst hph hpc hb hk,
    peTrace_inSlot hs (.inr (by exact hst)) (by exact hph) (by exact hpc) hj]
  exact ⟨_, rfl, hst, hdc, rfl⟩

/-- The emit cycle after a response frame: pe_rx has the eight samples, the first in bit 7 (R133, R137). -/
theorem AtResponse.emit (h : AtResponse n p) :
    ∃ q, peTrace c ms p (byteCycles c) = q ∧ q.state = peEMIT ∧ q.dc = false ∧ q.rem.toNat = n
      ∧ ∀ k < 8, q.rx.getLsbD (7 - k) = ms ((k + 1) * slotCycles c - 1) := by
  obtain ⟨hst, hph, hpc, hb, hdc, hrem⟩ := h
  rw [byteCycles, slotCycles, peTrace_responseFrame hs ha hst hph hpc hb]
  exact ⟨_, rfl, rfl, hdc, hrem, fun k hk => getLsbD_samples p.rx _ le_rfl hk⟩

/-- The emit cycle goes on to the next response frame while bytes are left (R134). -/
theorem AtResponse.next (h : AtResponse (n + 2) p) : AtResponse (n + 1) (peTrace c ms p (byteCycles c + 1)) := by
  obtain ⟨q, hq, hst, hdc, hrem, -⟩ := h.emit (ms := ms) hs ha
  have hmore : q.rem ≠ 1#4 := by bv_omega
  rw [peTrace, hq, peRule_emit hst, peEmitRule, if_neg hmore]
  exact ⟨rfl, rfl, rfl, rfl, hdc, by show (q.rem - 1#4).toNat = n + 1; bv_omega⟩

/-- Response frame j of an accepted request begins j frames and emit cycles after the request frame (R109). -/
theorem atResponse_nth (hj : j < r.rlen.toNat) :
    AtResponse (r.rlen.toNat - j) (peTrace c ms (peIdleRule (some r) p) (byteCycles c + j * (byteCycles c + 1))) := by
  induction j with
  | zero =>
    rw [Nat.zero_mul, Nat.add_zero, Nat.sub_zero]
    exact atResponse_first hs ha fun h => by simp [h] at hj
  | succ j ih =>
    obtain ⟨n, hn⟩ : ∃ n, r.rlen.toNat - j = n + 2 := ⟨r.rlen.toNat - j - 2, by omega⟩
    rw [Nat.add_mul, Nat.one_mul, ← Nat.add_assoc, peTrace_add, show r.rlen.toNat - (j + 1) = n + 1 by omega]
    exact AtResponse.next hs ha (hn ▸ ih (by omega))

/-- Cycle i of slot k of response byte j of an accepted request (R108). -/
theorem peTrace_responseSlot (hj : j < r.rlen.toNat) (hk : k < 8) {i : Nat} (hi : i < slotCycles c) :
    ∃ q, peTrace c ms (peIdleRule (some r) p) (byteCycles c + j * (byteCycles c + 1) + (k * slotCycles c + i)) = q
      ∧ q.state = peRX ∧ q.dc = false ∧ q.ph = if i < c.tSetup then .setup else .active := by
  rw [peTrace_add]
  exact (atResponse_nth hs ha hj).slot hs ha hk hi

/-- The emit cycle of response byte j of an accepted request, with the samples of the byte's slots (R108, R136). -/
theorem peTrace_responseEmit (hj : j < r.rlen.toNat) :
    ∃ q, peTrace c ms (peIdleRule (some r) p) (byteCycles c + j * (byteCycles c + 1) + byteCycles c) = q
      ∧ q.state = peEMIT ∧ q.dc = false
      ∧ ∀ k < 8, q.rx.getLsbD (7 - k) = ms (byteCycles c + j * (byteCycles c + 1) + ((k + 1) * slotCycles c - 1)) := by
  rw [peTrace_add]
  obtain ⟨q, hq, hst, hdc, -, hrx⟩ := (atResponse_nth hs ha hj).emit hs ha
  exact ⟨q, hq, hst, hdc, hrx⟩

end

end Sys2Proof.Machine

namespace Sys2Proof.Proofs

open Sys2Proof.Machine Sys2Proof.Safety

/-- Settles O6: unpacking undoes packing for the requests, an entry's command byte tells a sentinel from a command, and every state row
has a code of its own. -/
theorem decodeOfEncodeIsTheInstruction : Obligations.DecodeOfEncodeIsTheInstruction := by
  intro nop i hwf
  cases i with
  | txnCmd d n => exact congrArg Except.ok (decodeReq_pack ⟨d, true, n⟩)
  | txnParam d n => exact congrArg Except.ok (decodeReq_pack ⟨d, false, n⟩)
  | initNop => exact decodeInit_sentinel nop
  | initCmd cmd params => exact decodeInit_command (by simpa [Instr.wf] using hwf) params
  | peIdle | peTx | peRx | peEmit => rfl
  | isReset | isWait | isNext | isCmd | isParam | isDone => rfl
  | spBringup | spBeginWrite | spRenderAddr | spRenderByte0 | spRenderByte1 => rfl
  | spEvolveAddr | spEvolveAcc | spEvolveWrite | spTransitionLoad | spTransitionWrite => rfl

/-- Settles O7, format by format: packing undoes unpacking for REQ, and an item of another format with a meaning is a listed one. -/
theorem encodeOfDecodeIsTheItem : Obligations.EncodeOfDecodeIsTheItem := by
  intro nop c i h
  cases c with
  | req w =>
    cases h
    exact ⟨encode_decodeReq nop w, Req.toInstr_wf nop _⟩
  | init bytes =>
    obtain ⟨rfl, rfl⟩ | ⟨cmd, params, hc, rfl, rfl⟩ := decodeInit_cases h
    · exact ⟨rfl, rfl⟩
    · exact ⟨rfl, by simpa [Instr.wf] using hc⟩
  | peState c =>
    cases h
    exact encode_decodePeState nop c
  | isState c => exact encode_of_decodeIsState h
  | spState c => exact encode_of_decodeSpState h

/-- Settles O9: the unpacked mode is bit 8. -/
theorem reqBit8SelectsTheOperation : Obligations.ReqBit8SelectsTheOperation := fun _ _ =>
  ⟨fun h => congrArg Except.ok (decodeReq_of_command h), fun h => congrArg Except.ok (decodeReq_of_parameter h)⟩

/-- Settles O5: REQ and PESTATE reserve nothing, a sentinel with parameters breaks R10, and fetch finds no row for the other codes. -/
theorem reservedEncodingsAreRefused : Obligations.ReservedEncodingsAreRefused := by
  refine ⟨fun nop w => ?_, decodeInit_sentinel_params, fun c e he hc hp => ?_, fun _ _ => ⟨_, rfl⟩, fun s hw hr hst => ?_,
    fun s hw hr hsp => ?_⟩
  · obtain ⟨hcommand, hparameter⟩ := reqBit8SelectsTheOperation nop w
    cases hb : w.getLsbD 8 with
    | true => exact ⟨_, _, .inl (hcommand hb)⟩
    | false => exact ⟨_, _, .inr (hparameter hb)⟩
  · exact Bool.eq_false_iff.2 fun hw => hp (Cfg.wf_sentinel hw he hc)
  · refine step_of_unlisted hw hr fun j k hj => ?_
    rw [decodeIsState_unlisted hst] at hj
    cases hj
  · exact step_of_unlisted hw hr fun j k _ hk => hsp (spPair_of_listed (by rw [hk]; rfl))

/-- Settles O8: ten closed decodings. -/
theorem specWordsDecode : Obligations.SpecWordsDecode := by
  unfold Obligations.SpecWordsDecode
  decide

/-- Settles O50: a run from the acceptance moves the PE along the request's trace, which slot k's cycle j is in. -/
theorem requestFrameOnTheLine : Obligations.RequestFrameOnTheLine := by
  intro s r k j hinv hready hport hk hj hr
  have hslot := peTrace_requestSlot (ms := fun i => s.misoAt (1 + i)) (p := s.pe) (r := r)
    (Cfg.wf_tSetup hinv.1) (Cfg.wf_tActive hinv.1) hk hj
  rw [Nat.add_assoc] at hr ⊢
  obtain ⟨t, ht, hpe⟩ := runFor_accepted hinv hready hport hr (by rw [hslot]; simp [peIdleRule])
  rw [hslot] at hpe
  have hst : t.pe.state = peTX := by rw [hpe]; rfl
  refine ⟨t, ht, ?_, ?_, sclk_inSlot (.inl hst) (by rw [hpe]), by simp [State.reqReady, hst]⟩
  · rw [State.mosi, if_pos hst, hpe, toNat_bitIndex hk]
    rfl
  · rw [State.dc, hpe]
    rfl

/-- Settles O51: response frame j begins where j frames and emit cycles have passed; the run is in its slots, and after them in the emit
cycle with the samples of those slots. -/
theorem responseFramesOnTheLine : Obligations.ResponseFramesOnTheLine := by
  intro s r j hinv hready hport hj hr
  have hs : 1 ≤ s.cfg.tSetup := Cfg.wf_tSetup hinv.1
  have ha : 1 ≤ s.cfg.tActive := Cfg.wf_tActive hinv.1
  have hend : byteCycles s.cfg + (j + 1) * (byteCycles s.cfg + 1)
      = 1 + (byteCycles s.cfg + j * (byteCycles s.cfg + 1) + byteCycles s.cfg) := by
    rw [Nat.add_mul]
    omega
  rw [hend] at hr ⊢
  constructor
  · intro k i hk hi
    obtain ⟨q, hq, hst, hdc, hph⟩ :=
      peTrace_responseSlot (ms := fun i => s.misoAt (1 + i)) (p := s.pe) hs ha hj hk hi
    have hin : k * slotCycles s.cfg + i < byteCycles s.cfg :=
      calc k * slotCycles s.cfg + i < (k + 1) * slotCycles s.cfg := by rw [Nat.add_mul]; omega
        _ ≤ byteCycles s.cfg := Nat.mul_le_mul_right _ hk
    obtain ⟨t, ht, rfl⟩ := hq ▸ runFor_accepted hinv hready hport (noRst_mono (by omega) hr) (by rw [hq, hst]; decide)
    refine ⟨t, ?_, hst, hdc, ?_, sclk_inSlot (.inr hst) hph, ?_, ?_⟩
    · simpa only [Nat.add_assoc] using ht
    · simp [State.mosi, hst]
    · simp [State.rspValid, hst]
    · simp [State.reqReady, hst]
  · obtain ⟨q, hq, hst, hdc, hrx⟩ := peTrace_responseEmit (ms := fun i => s.misoAt (1 + i)) (p := s.pe) hs ha hj
    obtain ⟨t, ht, rfl⟩ := hq ▸ runFor_accepted hinv hready hport hr (by rw [hq, hst]; decide)
    refine ⟨t, ht, by simp [State.rspValid, hst], by simp [State.sclk, hst], hdc, by simp [State.mosi, hst], fun k hk => ?_⟩
    have hsample : 1 + (byteCycles s.cfg + j * (byteCycles s.cfg + 1) + ((k + 1) * slotCycles s.cfg - 1))
        = sampleCycle s.cfg j k := by
      have hpos : 0 < (k + 1) * slotCycles s.cfg := Nat.mul_pos k.succ_pos (Nat.add_pos_left hs _)
      rw [sampleCycle]
      omega
    rw [State.rspData, if_pos hst, hrx k hk, hsample]

end Sys2Proof.Proofs
end

section
/-! SUPPORT. The family of 40_protocol_engine.md: a bit slot's cycle case by case, what the PE's rows and the IS's rows leave alone, how
many cycles a PE has left until it is in IDLE, and whole transactions: as rows, and as runs with their pulses and response bytes. -/

namespace Sys2Proof.Machine

open Sys2Proof.Safety

/-! The Protocol Engine's cycles. -/

section
variable {c : Cfg} {p : PeRegs} {atEnd : PeRegs → PeRegs}

/-- The last cycle of a setup phase (R106). -/
theorem bitSlotRule_setup_last (hph : p.ph = .setup) (h : p.pcnt + 1 = c.tSetup) :
    bitSlotRule c p atEnd = { p with ph := .active, pcnt := 0 } := by
  simp [bitSlotRule, hph, Nat.eq_sub_of_add_eq h]

/-- A cycle of a setup phase before its last one (R106). -/
theorem bitSlotRule_setup_more (hph : p.ph = .setup) (h : p.pcnt + 1 < c.tSetup) :
    bitSlotRule c p atEnd = { p with pcnt := p.pcnt + 1 } := by
  have hne : p.pcnt ≠ c.tSetup - 1 := by omega
  simp [bitSlotRule, hph, hne, bump_setup h]

/-- A cycle of an active phase before its last one (R106). -/
theorem bitSlotRule_active_more (hph : p.ph = .active) (h : p.pcnt + 1 < c.tActive) :
    bitSlotRule c p atEnd = { p with pcnt := p.pcnt + 1 } := by
  have hne : p.pcnt ≠ c.tActive - 1 := by omega
  simp [bitSlotRule, hph, hne, bump_active h]

/-- The last cycle of an active phase, and so of the bit slot (R106). -/
theorem bitSlotRule_active_last (hph : p.ph = .active) (h : p.pcnt + 1 = c.tActive) :
    bitSlotRule c p atEnd = atEnd { p with pcnt := 0, ph := .setup } := by
  simp [bitSlotRule, hph, Nat.eq_sub_of_add_eq h]

/-- Whatever the phase counter holds, a cycle before the slot's last one moves the phase and its counter alone. -/
theorem bitSlotRule_inside (h : ¬(p.ph = .active ∧ p.pcnt = c.tActive - 1)) :
    ∃ ph n, bitSlotRule c p atEnd = { p with ph := ph, pcnt := n } := by
  unfold bitSlotRule
  split
  · split_ifs
    · exact ⟨_, _, rfl⟩
    · exact ⟨_, _, rfl⟩
  · next hph =>
    have hmore : p.pcnt ≠ c.tActive - 1 := fun hlast => h ⟨hph, hlast⟩
    exact ⟨p.ph, _, by rw [if_pos hmore]⟩

/-- A request bit's slot ends with dc kept, unless it is the frame's last one (R132, R141). -/
theorem txBitEnd_dc (h : (txBitEnd p).state = peTX) : (txBitEnd p).dc = p.dc := by
  unfold txBitEnd at h ⊢
  split_ifs at h ⊢
  · rfl
  · cases h
  · cases h

/-- dc stays as it is through a request frame (R141). -/
theorem peTxRule_dc (h : (peTxRule c p).state = peTX) : (peTxRule c p).dc = p.dc := by
  unfold peTxRule at h ⊢
  by_cases hlast : p.ph = .active ∧ p.pcnt = c.tActive - 1
  · obtain ⟨hph, hpc⟩ := hlast
    have heq : bitSlotRule c p txBitEnd = txBitEnd { p with pcnt := 0, ph := .setup } := by simp [bitSlotRule, hph, hpc]
    rw [heq] at h ⊢
    exact txBitEnd_dc h
  · obtain ⟨ph, n, heq⟩ := bitSlotRule_inside (atEnd := txBitEnd) hlast
    rw [heq]

end

/-- A PE row answers a next state that differs in the PE's registers only (R131 to R134). -/
theorem exec_peRow_next {s t : State} {i : Instr} (h : i ∈ [Instr.peIdle, .peTx, .peRx, .peEmit]) (hst : exec i s = .next t) :
    ∃ p, t = s.setPe p := by
  simp only [List.mem_cons, List.not_mem_nil, or_false] at h
  rcases h with rfl | rfl | rfl | rfl <;> (cases hst; exact ⟨_, rfl⟩)

/-- An IS row answers a next state that differs in the IS's registers only (R171 to R176). -/
theorem exec_isRow_next {s t : State} {i : Instr} (h : i ∈ [Instr.isReset, .isWait, .isNext, .isCmd, .isParam, .isDone])
    (hst : exec i s = .next t) : ∃ q, t = s.setIs q := by
  simp only [List.mem_cons, List.not_mem_nil, or_false] at h
  rcases h with rfl | rfl | rfl | rfl | rfl | rfl <;> (cases hst; exact ⟨_, rfl⟩)

section
variable {s : State}

/-- req_ready tells IDLE (R130). -/
theorem reqReady_iff : s.reqReady = true ↔ s.pe.state = peIDLE := by simp [State.reqReady]

/-- A PE that is not ready is not in IDLE (R130). -/
theorem reqReady_eq_false_iff : s.reqReady = false ↔ s.pe.state ≠ peIDLE := by
  rw [← Bool.not_eq_true, reqReady_iff]

/-- While a request is on the port the port offers its lines (R131). -/
theorem port_of_reqValid (h : s.reqValid = true) : s.port = some s.reqLines := if_pos h

theorem port_of_not_reqValid (h : s.reqValid = false) : s.port = none := by simp [State.port, h]

end

/-! How many cycles a PE has left until it is in IDLE. -/

/-- The cycles left of the current bit slot, this one among them (R106). -/
def slotLeft (c : Cfg) (p : PeRegs) : Nat :=
  match p.ph with
  | .setup => c.tSetup - p.pcnt + c.tActive
  | .active => c.tActive - p.pcnt

/-- The cycles left of the current byte frame's slots (R107, R108). -/
def frameLeft (c : Cfg) (p : PeRegs) : Nat := p.bit.toNat * slotCycles c + slotLeft c p

/-- The cycles until the PE is in IDLE with nothing offered to it: the current frame, the emit cycle of a response frame, and B + 1 cycles
for each response frame after it (R109, R145). -/
def peLeft (c : Cfg) (p : PeRegs) : Nat :=
  if p.state = peIDLE then 0
  else if p.state = peTX then frameLeft c p + p.rem.toNat * (byteCycles c + 1)
  else if p.state = peRX then frameLeft c p + 1 + (p.rem.toNat - 1) * (byteCycles c + 1)
  else 1 + (p.rem.toNat - 1) * (byteCycles c + 1)

section
variable {c : Cfg} {p : PeRegs} {o : Option Req} {m : Bool} {ms : Nat → Bool} {k : Nat}

theorem peLeft_idle (h : p.state = peIDLE) : peLeft c p = 0 := if_pos h
theorem peLeft_tx (h : p.state = peTX) : peLeft c p = frameLeft c p + p.rem.toNat * (byteCycles c + 1) := by simp [peLeft, h]
theorem peLeft_rx (h : p.state = peRX) : peLeft c p = frameLeft c p + 1 + (p.rem.toNat - 1) * (byteCycles c + 1) := by
  simp [peLeft, h]
theorem peLeft_emit (h : p.state = peEMIT) : peLeft c p = 1 + (p.rem.toNat - 1) * (byteCycles c + 1) := by simp [peLeft, h]

theorem slotLeft_start (hph : p.ph = .setup) (hpc : p.pcnt = 0) : slotLeft c p = slotCycles c := by
  simp [slotLeft, slotCycles, hph, hpc]

theorem frameLeft_start (hph : p.ph = .setup) (hpc : p.pcnt = 0) (hb : p.bit = 7#3) : frameLeft c p = byteCycles c := by
  simp only [frameLeft, slotLeft_start hph hpc, hb, BitVec.toNat_ofNat, byteCycles]
  omega

/-- A frame goes on to its next bit as long as there is one. -/
theorem frameLeft_nextBit (hb : p.bit ≠ 0#3) : (p.bit - 1#3).toNat * slotCycles c + slotCycles c = p.bit.toNat * slotCycles c := by
  obtain ⟨n, hn⟩ : ∃ n, p.bit.toNat = n + 1 := ⟨p.bit.toNat - 1, by bv_omega⟩
  have hnext : (p.bit - 1#3).toNat = n := by bv_omega
  rw [hn, hnext, Nat.add_mul, Nat.one_mul]

/-- A bit slot has a cycle left while the phase counter is inside its phase, and at most a whole slot. -/
theorem slotLeft_bounds (ha : 1 ≤ c.tActive) (h : PhaseOk c p) : 1 ≤ slotLeft c p ∧ slotLeft c p ≤ slotCycles c := by
  obtain ⟨hsetup, hactive⟩ := h
  unfold slotLeft slotCycles
  split
  · omega
  · next hph =>
    have hlt := hactive hph
    omega

/-- A bit slot's cycle leaves one cycle less of the slot, or was its last one. -/
theorem bitSlotRule_countdown (h : PhaseOk c p) (atEnd : PeRegs → PeRegs) :
    (∃ ph n, bitSlotRule c p atEnd = { p with ph := ph, pcnt := n }
        ∧ slotLeft c { p with ph := ph, pcnt := n } + 1 = slotLeft c p)
      ∨ (bitSlotRule c p atEnd = atEnd { p with pcnt := 0, ph := .setup } ∧ slotLeft c p = 1) := by
  obtain ⟨hsetup, hactive⟩ := h
  cases hph : p.ph with
  | setup =>
    rcases Nat.eq_or_lt_of_le (hsetup hph) with hlast | hmore
    · exact .inl ⟨_, _, bitSlotRule_setup_last hph hlast, by simp [slotLeft, hph]; omega⟩
    · exact .inl ⟨.setup, _, by rw [bitSlotRule_setup_more hph hmore, ← hph], by simp [slotLeft, hph]; omega⟩
  | active =>
    rcases Nat.eq_or_lt_of_le (hactive hph) with hlast | hmore
    · exact .inr ⟨bitSlotRule_active_last hph hlast, by simp [slotLeft, hph]; omega⟩
    · exact .inl ⟨.active, _, by rw [bitSlotRule_active_more hph hmore, ← hph], by simp [slotLeft, hph]; omega⟩

/-- The last cycle of a request bit's slot leaves the frame's other slots, or the response frames (R132). -/
theorem peLeft_txBitEnd (ht : p.state = peTX) (hph : p.ph = .setup) (hpc : p.pcnt = 0) :
    peLeft c (txBitEnd p) = p.bit.toNat * slotCycles c + p.rem.toNat * (byteCycles c + 1) := by
  unfold txBitEnd
  split_ifs with hb hr
  · rw [peLeft_tx (by exact ht), frameLeft, slotLeft_start (by exact hph) (by exact hpc), frameLeft_nextBit hb]
  · simp [peLeft_idle, not_not.1 hb, hr]
  · obtain ⟨n, hn⟩ : ∃ n, p.rem.toNat = n + 1 := ⟨p.rem.toNat - 1, by bv_omega⟩
    rw [peLeft_rx (by rfl), frameLeft_start (by exact hph) (by exact hpc) (by rfl), not_not.1 hb]
    simp only [hn, Nat.add_sub_cancel, Nat.add_mul n, BitVec.toNat_ofNat]
    omega

/-- The last cycle of a response bit's slot leaves the frame's other slots, the emit cycle and the other frames (R133). -/
theorem peLeft_rxBitEnd (ht : p.state = peRX) (hph : p.ph = .setup) (hpc : p.pcnt = 0) :
    peLeft c (rxBitEnd m p) = p.bit.toNat * slotCycles c + 1 + (p.rem.toNat - 1) * (byteCycles c + 1) := by
  unfold rxBitEnd
  split_ifs with hb
  · rw [peLeft_rx (by exact ht), frameLeft, slotLeft_start (by exact hph) (by exact hpc), frameLeft_nextBit hb]
  · simp [peLeft_emit, not_not.1 hb]

/-- The emit cycle leaves the response frames after it (R134). -/
theorem peLeft_peEmitRule (hr : p.rem ≠ 0#4) : peLeft c (peEmitRule p) = (p.rem.toNat - 1) * (byteCycles c + 1) := by
  unfold peEmitRule
  split_ifs with h1
  · simp [peLeft_idle, h1]
  · obtain ⟨n, hn⟩ : ∃ n, p.rem.toNat = n + 2 := ⟨p.rem.toNat - 2, by bv_omega⟩
    have hnext : (p.rem - 1#4).toNat = n + 1 := by bv_omega
    rw [peLeft_rx (by rfl), frameLeft_start (by rfl) (by rfl) (by rfl)]
    simp only [hn, hnext, Nat.add_sub_cancel, Nat.add_mul, show n + 2 - 1 = n + 1 from rfl]
    omega

/-- A cycle with nothing offered brings a busy PE one cycle nearer to IDLE, whatever miso is (R143, R145). -/
theorem peLeft_peRule (h : PeOk c p) : peLeft c (peRule c none m p) = peLeft c p - 1 := by
  rcases peState_cases p.state with ht | ht | ht | ht
  · rw [peRule_idle_none ht, peLeft_idle ht]
  · rw [peRule_tx ht, peTxRule, peLeft_tx ht, frameLeft]
    obtain ⟨ph, n, heq, hleft⟩ | ⟨heq, hleft⟩ := bitSlotRule_countdown ((peOk_tx_iff ht).1 h) txBitEnd <;> rw [heq]
    · rw [peLeft_tx (by exact ht), frameLeft]
      dsimp only
      omega
    · rw [peLeft_txBitEnd (by exact ht) rfl rfl]
      dsimp only
      omega
  · obtain ⟨hph, hr, -⟩ := (peOk_rx_iff ht).1 h
    rw [peRule_rx ht, peRxRule, peLeft_rx ht, frameLeft]
    obtain ⟨ph, n, heq, hleft⟩ | ⟨heq, hleft⟩ := bitSlotRule_countdown hph (rxBitEnd m) <;> rw [heq]
    · rw [peLeft_rx (by exact ht), frameLeft]
      dsimp only
      omega
    · rw [peLeft_rxBitEnd (by exact ht) rfl rfl]
      dsimp only
      omega
  · obtain ⟨-, -, -, -, hr, -⟩ := h
    rw [peRule_emit ht, peLeft_peEmitRule (hr (.inr ht)), peLeft_emit ht]
    omega

/-- A PE of the invariant is in IDLE exactly when it has no cycle left. -/
theorem peLeft_eq_zero_iff (ha : 1 ≤ c.tActive) (h : PeOk c p) : peLeft c p = 0 ↔ p.state = peIDLE := by
  refine ⟨fun h0 => ?_, peLeft_idle⟩
  rcases peState_cases p.state with ht | ht | ht | ht
  · exact ht
  · have hpos := (slotLeft_bounds ha ((peOk_tx_iff ht).1 h)).1
    rw [peLeft_tx ht, frameLeft] at h0
    omega
  · rw [peLeft_rx ht] at h0
    omega
  · rw [peLeft_emit ht] at h0
    omega

/-- No PE of the invariant takes longer than sixteen byte frames with their emit cycles (R145). -/
theorem peLeft_le (ha : 1 ≤ c.tActive) (h : PeOk c p) : peLeft c p ≤ 16 * (byteCycles c + 1) := by
  have hframe (hph : PhaseOk c p) : frameLeft c p ≤ byteCycles c := by
    have hslot := (slotLeft_bounds ha hph).2
    have hbits : p.bit.toNat * slotCycles c ≤ 7 * slotCycles c := Nat.mul_le_mul_right _ (Nat.le_of_lt_succ p.bit.isLt)
    rw [frameLeft, byteCycles]
    omega
  have hrem : p.rem.toNat * (byteCycles c + 1) ≤ 15 * (byteCycles c + 1) :=
    Nat.mul_le_mul_right _ (Nat.le_of_lt_succ p.rem.isLt)
  have hrest : (p.rem.toNat - 1) * (byteCycles c + 1) ≤ p.rem.toNat * (byteCycles c + 1) :=
    Nat.mul_le_mul_right _ (Nat.sub_le _ _)
  rcases peState_cases p.state with ht | ht | ht | ht
  · rw [peLeft_idle ht]
    omega
  · have hf := hframe ((peOk_tx_iff ht).1 h)
    rw [peLeft_tx ht]
    omega
  · have hf := hframe ((peOk_rx_iff ht).1 h).1
    rw [peLeft_rx ht]
    omega
  · rw [peLeft_emit ht]
    omega

/-- The bound of the operations of many cycles covers every PE of the invariant (log entry 6). -/
theorem peLeft_le_peBusyBound (ha : 1 ≤ c.tActive) (h : PeOk c p) : peLeft c p ≤ peBusyBound c := by
  have hle := peLeft_le ha h
  have hwidth : max c.tSetup c.tActive ≤ 2 ^ pcntWidth c := le_two_pow_regWidth _
  unfold byteCycles slotCycles at hle
  unfold peBusyBound
  omega

/-- With nothing offered a PE keeps its invariant. -/
theorem peTrace_keeps_peOk (hs : 1 ≤ c.tSetup) (ha : 1 ≤ c.tActive) (h : PeOk c p) (k : Nat) : PeOk c (peTrace c ms p k) := by
  induction k with
  | zero => exact h
  | succ k ih => exact peRule_keeps_peOk hs ha none (ms k) ih

/-- With nothing offered every cycle of a PE brings it one cycle nearer to IDLE. -/
theorem peLeft_peTrace (hs : 1 ≤ c.tSetup) (ha : 1 ≤ c.tActive) (h : PeOk c p) (k : Nat) :
    peLeft c (peTrace c ms p k) = peLeft c p - k := by
  induction k with
  | zero => rfl
  | succ k ih => rw [peTrace, peLeft_peRule (peTrace_keeps_peOk hs ha h k), ih, Nat.sub_sub]

/-- With nothing offered a PE of the invariant is in IDLE when its cycles are over, and not before (R145). -/
theorem peTrace_idle_iff (hs : 1 ≤ c.tSetup) (ha : 1 ≤ c.tActive) (h : PeOk c p) :
    (peTrace c ms p k).state = peIDLE ↔ peLeft c p ≤ k := by
  rw [← peLeft_eq_zero_iff ha (peTrace_keeps_peOk hs ha h k), peLeft_peTrace hs ha h, Nat.sub_eq_zero_iff_le]

/-- With nothing offered pe_tx stays as it is. -/
theorem peTrace_tx (k : Nat) : (peTrace c ms p k).tx = p.tx := by
  induction k with
  | zero => rfl
  | succ k ih => rw [peTrace, (peRule_none (ms k)).1, ih]

end

/-! Samples and transactions in the PE's trace. -/

/-- The byte of eight samples, the first in bit 7 (R43, R133). -/
def sampledByte (sample : Nat → Bool) : Byte := ((List.range 8).map sample).foldl shiftIn 0#8

/-- Bytes that agree on the bits 7 - k for k below 8 are equal. -/
theorem Byte.eq_of_bits {x y : Byte} (h : ∀ k < 8, x.getLsbD (7 - k) = y.getLsbD (7 - k)) : x = y := by
  refine BitVec.eq_of_getLsbD_eq fun i hi => ?_
  have hbit := h (7 - i) (by omega)
  rwa [Nat.sub_sub_self (Nat.le_of_lt_succ hi)] at hbit

theorem getLsbD_sampledByte (sample : Nat → Bool) {k : Nat} (hk : k < 8) : (sampledByte sample).getLsbD (7 - k) = sample k :=
  getLsbD_samples 0#8 sample le_rfl hk

/-- Eight samples leave nothing of what pe_rx held before (R43). -/
theorem foldl_shiftIn_eq_sampledByte (rx : Byte) (sample : Nat → Bool) :
    ((List.range 8).map sample).foldl shiftIn rx = sampledByte sample :=
  Byte.eq_of_bits fun _ hk => (getLsbD_samples rx sample le_rfl hk).trans (getLsbD_sampledByte sample hk).symm

/-- Response byte j of a transaction, for the levels of miso counted from the cycle that accepts the request (R108, R137). -/
def responseByte (c : Cfg) (ms : Nat → Bool) (j : Nat) : Byte := sampledByte fun k => ms (sampleCycle c j k)

/-- The PE's registers after a transaction that sent d and received n bytes, where pe_rx held rx before (R138, R139). -/
def transactionEnd (c : Cfg) (ms : Nat → Bool) (rx d : Byte) (n : BitVec 4) : PeRegs :=
  { state := peIDLE, bit := 0#3, ph := .setup, pcnt := 0, tx := d
    rx := if n = 0#4 then rx else responseByte c ms (n.toNat - 1)
    rem := 0#4, dc := false }

/-- The registers in cycle j of a bit slot that begins with the registers q (R106). -/
def inSlot (c : Cfg) (q : PeRegs) (j : Nat) : PeRegs :=
  { q with ph := if j < c.tSetup then .setup else .active, pcnt := if j < c.tSetup then j else j - c.tSetup }

section
variable {c : Cfg} {ms : Nat → Bool} {p : PeRegs} {r : Req} {n j k : Nat}

/-- An accepted request has its whole transaction left (R109). -/
theorem peLeft_accepted : peLeft c (peIdleRule (some r) p) = transactionCycles c r.rlen.toNat := by
  rw [peLeft_tx (by rfl), frameLeft_start (by rfl) (by rfl) (by rfl)]
  rfl

variable (hs : 1 ≤ c.tSetup)
include hs

theorem peOk_accepted : PeOk c (peIdleRule (some r) p) := (peOk_tx_iff (by rfl)).2 (phaseOk_setup_zero hs rfl rfl)

/-- The sample of slot k of response byte j, counted from the acceptance and from the cycle after it. -/
theorem sampleCycle_eq (j k : Nat) :
    1 + (byteCycles c + j * (byteCycles c + 1) + ((k + 1) * slotCycles c - 1)) = sampleCycle c j k := by
  have hpos : 0 < (k + 1) * slotCycles c := Nat.mul_pos k.succ_pos (Nat.add_pos_left hs _)
  rw [sampleCycle]
  omega

variable (ha : 1 ≤ c.tActive)
include ha

/-- The last response frame and its emit cycle (R133, R134). -/
theorem AtResponse.last (h : AtResponse 1 p) :
    peTrace c ms p (byteCycles c + 1)
      = { state := peIDLE, bit := 0#3, ph := .setup, pcnt := 0, tx := p.tx
          rx := sampledByte fun k => ms ((k + 1) * slotCycles c - 1), rem := 0#4, dc := false } := by
  obtain ⟨hst, hph, hpc, hb, hdc, hrem⟩ := h
  have hone : p.rem = 1#4 := BitVec.eq_of_toNat_eq hrem
  rw [peTrace, byteCycles, slotCycles, peTrace_responseFrame hs ha hst hph hpc hb, peRule_emit (by rfl), peEmitRule,
    if_pos (by exact hone), foldl_shiftIn_eq_sampledByte, hph, hpc, hdc, hone]
  rfl

/-- The registers that a whole transaction leaves (R109, R138, R139). -/
theorem peTrace_transaction :
    peTrace c (fun i => ms (1 + i)) (peIdleRule (some r) p) (transactionCycles c r.rlen.toNat)
      = transactionEnd c ms p.rx r.data r.rlen := by
  by_cases hr : r.rlen = 0#4
  · rw [hr, transactionCycles, BitVec.toNat_ofNat, Nat.zero_mod, Nat.zero_mul, Nat.add_zero, byteCycles, slotCycles,
      peTrace_requestFrame hs ha rfl rfl rfl rfl, if_pos (by exact hr), transactionEnd, if_pos rfl]
    simp only [peIdleRule, hr]
  · obtain ⟨n, hn⟩ : ∃ n, r.rlen.toNat = n + 1 := ⟨r.rlen.toNat - 1, by bv_omega⟩
    have hcycles : transactionCycles c r.rlen.toNat = byteCycles c + n * (byteCycles c + 1) + (byteCycles c + 1) := by
      rw [transactionCycles, hn, Nat.add_mul n, Nat.one_mul, Nat.add_assoc]
    have hlast := atResponse_nth (c := c) (ms := fun i => ms (1 + i)) (p := p) (r := r) (j := n) hs ha (by omega)
    rw [hn, Nat.add_sub_cancel_left] at hlast
    rw [hcycles, peTrace_add, AtResponse.last hs ha hlast, peTrace_tx, transactionEnd, if_neg hr, hn, Nat.add_sub_cancel]
    simp only [sampleCycle_eq hs, responseByte]
    rfl

/-- Slot k of a response frame has registers of RX with dc low to begin with (R108). -/
theorem AtResponse.slotStart (h : AtResponse n p) (hk : k < 8) :
    ∃ q : PeRegs, q.state = peRX ∧ q.dc = false
      ∧ ∀ i < slotCycles c, peTrace c ms p (k * slotCycles c + i) = inSlot c q i := by
  obtain ⟨hst, hph, hpc, hb, hdc, -⟩ := h
  rw [slotCycles]
  refine ⟨peTrace c ms p (k * (c.tSetup + c.tActive)), ?_⟩
  simp only [peTrace_add, peTrace_responseBits hs ha hst hph hpc hb hk]
  exact ⟨hst, hdc, fun i hi => peTrace_inSlot hs (.inr (by exact hst)) (by exact hph) (by exact hpc) hi⟩

end

/-! Transactions as rows. -/

/-- s after k cycles of the PE alone that leave it with the registers p (log entry 6). -/
def State.peRan (s : State) (k : Nat) (p : PeRegs) : State :=
  { s with pe := p, inputs := s.inputs.drop k, tick := s.tick + k }

section
variable {s : State} {p q : PeRegs} {a b k n : Nat} {r : Req}

@[simp] theorem State.peRan_cfg : (s.peRan k p).cfg = s.cfg := rfl
@[simp] theorem State.peRan_pe : (s.peRan k p).pe = p := rfl

@[simp] theorem State.peRan_peRan : (s.peRan a p).peRan b q = s.peRan (a + b) q := by
  simp [State.peRan, Nat.add_assoc]

@[simp] theorem State.peRan_misoAt : (s.peRan a p).misoAt k = s.misoAt (a + k) := by
  simp [State.misoAt, State.peRan, Nat.add_assoc]

theorem State.peRan_noRst (h : NoRst (a + b) s) : NoRst b (s.peRan a p) := by
  intro i hi
  rw [State.peRan, ← Nat.add_sub_cancel_left (n := a) (m := b), ← List.drop_take] at hi
  exact h i (List.mem_of_mem_drop hi)

/-- A cycle of the PE alone without rst. -/
theorem peCycle_of_rst_low (o : Option Req) (h : s.rst = false) :
    peCycle o s = .ok (s.peRan 1 (peRule s.cfg o s.miso s.pe)) := by
  simp [peCycle, h, State.peRan, State.advance, State.setPe]

/-- The wait for IDLE is over at once in IDLE. -/
theorem runToIdle_idle (h : s.pe.state = peIDLE) : runToIdle k s = .ok s := by
  cases k with
  | zero => rfl
  | succ k => exact if_pos h

/-- The wait for IDLE takes the cycles that the PE has left (R143, R145). -/
theorem runToIdle_eq_waitCycles (hw : s.cfg.wf = true) (h : PeOk s.cfg s.pe) (hn : peLeft s.cfg s.pe = n) (hk : n ≤ k) :
    runToIdle k s = waitCycles n s := by
  induction n generalizing s k with
  | zero => rw [runToIdle_idle ((peLeft_eq_zero_iff (Cfg.wf_tActive hw) h).1 hn), waitCycles]
  | succ n ih =>
    obtain ⟨k, rfl⟩ : ∃ k', k = k' + 1 := ⟨k - 1, by omega⟩
    have hbusy : s.pe.state ≠ peIDLE := fun hidle => by simp [peLeft_idle hidle] at hn
    rw [runToIdle, if_neg hbusy, waitCycles]
    cases hr : s.rst with
    | true => simp [peCycle, hr, Except.bind]
    | false =>
      rw [peCycle_of_rst_low none hr]
      have hok := peRule_keeps_peOk (Cfg.wf_tSetup hw) (Cfg.wf_tActive hw) none s.miso h
      refine ih hw hok ?_ (Nat.le_of_succ_le_succ hk)
      rw [State.peRan_cfg, State.peRan_pe, peLeft_peRule h, hn, Nat.add_sub_cancel]

/-- The wait of the operations of many cycles leaves the PE in IDLE, where its trace ends (log entry 6). -/
theorem runToIdle_of_peOk (hw : s.cfg.wf = true) (h : PeOk s.cfg s.pe) (hr : NoRst (peLeft s.cfg s.pe) s) :
    runToIdle (peBusyBound s.cfg) s
      = .ok (s.peRan (peLeft s.cfg s.pe) (peTrace s.cfg s.misoAt s.pe (peLeft s.cfg s.pe))) := by
  rw [runToIdle_eq_waitCycles hw h rfl (peLeft_le_peBusyBound (Cfg.wf_tActive hw) h), waitCycles_ok _ s hr]
  rfl

/-- A transaction of an idle PE (R138). -/
theorem transact_of_idle (hw : s.cfg.wf = true) (hidle : s.pe.state = peIDLE)
    (hr : NoRst (transactionCycles s.cfg r.rlen.toNat + 1) s) :
    transact r s
      = .ok (s.peRan (transactionCycles s.cfg r.rlen.toNat + 1) (transactionEnd s.cfg s.misoAt s.pe.rx r.data r.rlen)) := by
  have hs := Cfg.wf_tSetup hw
  have hsubmit : submit r s = .ok (s.peRan 1 (peIdleRule (some r) s.pe)) := by
    have haccept := peCycle_of_rst_low (some r) (rst_of_noRst hr)
    rw [peRule_idle hidle] at haccept
    simp only [submit, runToIdle_idle hidle, Except.bind, haccept]
  have hleft : peLeft s.cfg (peIdleRule (some r) s.pe) = transactionCycles s.cfg r.rlen.toNat := peLeft_accepted
  rw [Nat.add_comm] at hr ⊢
  have hrun := runToIdle_of_peOk (s := s.peRan 1 (peIdleRule (some r) s.pe)) hw (peOk_accepted hs)
    (by rw [State.peRan_cfg, State.peRan_pe, hleft]; exact State.peRan_noRst hr)
  have hmiso : (s.peRan 1 (peIdleRule (some r) s.pe)).misoAt = fun i => s.misoAt (1 + i) := funext fun _ => State.peRan_misoAt
  rw [State.peRan_cfg, State.peRan_pe, hleft, hmiso, peTrace_transaction hs (Cfg.wf_tActive hw), State.peRan_peRan] at hrun
  simp only [transact, hsubmit, Except.bind, State.peRan_cfg, hrun]

/-- A transaction of a busy PE is the one that begins when the PE is in IDLE (R143). -/
theorem transact_of_busy (h : runToIdle (peBusyBound s.cfg) s = .ok (s.peRan k p)) (hidle : p.state = peIDLE) :
    transact r s = transact r (s.peRan k p) := by
  have hnow : runToIdle (peBusyBound (s.peRan k p).cfg) (s.peRan k p) = .ok (s.peRan k p) := runToIdle_idle hidle
  simp only [transact, submit, h, Except.bind, hnow]

/-- The two request rows are a transaction with the row's mode (R138, R139). -/
theorem exec_txn {d : Byte} {n : BitVec 4} {i : Instr} (hi : i = .txnCmd d n ∨ i = .txnParam d n) (s : State) :
    ∃ mode, exec i s = finish (transact ⟨d, mode, n⟩ s) := by
  rcases hi with rfl | rfl
  · exact ⟨true, rfl⟩
  · exact ⟨false, rfl⟩

/-- Both request rows, for an idle PE (R138, R139). -/
theorem exec_txn_of_idle {d : Byte} {n : BitVec 4} {i : Instr} (hi : i = .txnCmd d n ∨ i = .txnParam d n)
    (hw : s.cfg.wf = true) (hidle : s.pe.state = peIDLE) (hr : NoRst (transactionCycles s.cfg n.toNat + 1) s) :
    exec i s = .next (s.peRan (transactionCycles s.cfg n.toNat + 1) (transactionEnd s.cfg s.misoAt s.pe.rx d n)) := by
  obtain ⟨mode, hrow⟩ := exec_txn hi s
  rw [hrow, transact_of_idle hw hidle hr]
  rfl

/-- Both request rows, for any PE of the invariant (R143). -/
theorem exec_txn_of_peOk {d : Byte} {n : BitVec 4} {i : Instr} (hi : i = .txnCmd d n ∨ i = .txnParam d n)
    (hw : s.cfg.wf = true) (h : PeOk s.cfg s.pe) (hr : NoRst (peLeft s.cfg s.pe + (transactionCycles s.cfg n.toNat + 1)) s) :
    ∃ ms rx, exec i s
      = .next (s.peRan (peLeft s.cfg s.pe + (transactionCycles s.cfg n.toNat + 1)) (transactionEnd s.cfg ms rx d n)) := by
  obtain ⟨mode, hrow⟩ := exec_txn hi s
  have hwait := runToIdle_of_peOk hw h (noRst_mono (Nat.le_add_right _ _) hr)
  have hidle := (peTrace_idle_iff (ms := s.misoAt) (Cfg.wf_tSetup hw) (Cfg.wf_tActive hw) h).2 le_rfl
  have hrun := transact_of_idle (s := s.peRan _ _) (r := ⟨d, mode, n⟩) hw hidle (State.peRan_noRst hr)
  rw [State.peRan_cfg, State.peRan_peRan] at hrun
  rw [hrow, transact_of_busy hwait hidle, hrun]
  exact ⟨_, _, rfl⟩

end

/-! Pulses and response bytes in the PE's trace. -/

section
variable {α : Type} (f : Nat → List α)

/-- What n stretches of m cycles each give, one stretch after the other. -/
theorem flatMap_range_mul (n m : Nat) :
    (List.range (n * m)).flatMap f = (List.range n).flatMap fun j => (List.range m).flatMap fun i => f (j * m + i) := by
  induction n with
  | zero => simp
  | succ n ih =>
    rw [Nat.add_mul, Nat.one_mul, List.range_add, List.flatMap_append, ih, List.flatMap_map, List.range_succ,
      List.flatMap_append, List.flatMap_singleton]

/-- What the one cycle i among n gives. -/
theorem flatMap_range_at {n i : Nat} (hi : i < n) : ((List.range n).flatMap fun j => if j = i then f j else []) = f i := by
  induction n with
  | zero => omega
  | succ n ih =>
    rw [List.range_succ, List.flatMap_append, List.flatMap_singleton]
    rcases Nat.eq_or_lt_of_le (Nat.le_of_lt_succ hi) with rfl | hlt
    · rw [if_pos rfl, List.flatMap_eq_nil_iff.2 fun j hj => if_neg (List.mem_range.1 hj).ne, List.nil_append]
    · rw [ih hlt, if_neg (Nat.ne_of_gt hlt), List.append_nil]

/-- What a transaction's cycles give: its request frame's slots, then each response frame's slots and the emit cycle (R109). -/
theorem flatMap_range_transaction (c : Cfg) (n : Nat) :
    (List.range (transactionCycles c n)).flatMap f
      = ((List.range 8).flatMap fun k => (List.range (slotCycles c)).flatMap fun i => f (k * slotCycles c + i))
        ++ (List.range n).flatMap fun j =>
          ((List.range 8).flatMap fun k => (List.range (slotCycles c)).flatMap fun i =>
              f (byteCycles c + j * (byteCycles c + 1) + (k * slotCycles c + i)))
            ++ f (byteCycles c + j * (byteCycles c + 1) + byteCycles c) := by
  rw [transactionCycles, List.range_add, List.flatMap_append, List.flatMap_map, flatMap_range_mul _ n (byteCycles c + 1),
    byteCycles, flatMap_range_mul f]
  simp only [List.range_succ (n := 8 * slotCycles c), List.flatMap_append, List.flatMap_singleton, Nat.add_assoc]
  simp only [flatMap_range_mul _ 8 (slotCycles c)]

end

/-- mosi of the registers p in a cycle (R135). -/
def mosiOf (tick : Nat) (p : PeRegs) : Bool := if p.state = peTX then p.tx.getLsbD p.bit.toNat else Config.drawMosi tick

/-- The pulse that starts in a cycle with the registers p, if one does (R106). -/
def pulseOf (tick : Nat) (p : PeRegs) : List (Bool × Bool) :=
  if (p.state == peTX || p.state == peRX) && (p.ph == .active) && p.pcnt == 0 then [(mosiOf tick p, p.dc)] else []

/-- The byte on the response stream in a cycle with the registers p, if there is one (R136). -/
def emittedOf (p : PeRegs) : List Byte := if p.state = peEMIT then [p.rx] else []

section
variable {c : Cfg} {p q : PeRegs} {r : Req} {i j k : Nat}

theorem mosiOf_tx {tick : Nat} (h : p.state = peTX) : mosiOf tick p = p.tx.getLsbD p.bit.toNat := if_pos h
theorem mosiOf_of_ne {tick : Nat} (h : p.state ≠ peTX) : mosiOf tick p = Config.drawMosi tick := if_neg h

theorem pulseOf_idle (tick : Nat) (h : p.state = peIDLE) : pulseOf tick p = [] := by simp [pulseOf, h]
theorem pulseOf_emit (tick : Nat) (h : p.state = peEMIT) : pulseOf tick p = [] := by simp [pulseOf, h]
theorem emittedOf_of_ne (h : p.state ≠ peEMIT) : emittedOf p = [] := if_neg h

/-- A bit slot's pulse starts in the first cycle of the active phase (R106). -/
theorem pulseOf_inSlot (tick : Nat) (hst : q.state = peTX ∨ q.state = peRX) :
    pulseOf tick (inSlot c q i) = if i = c.tSetup then [(mosiOf tick q, q.dc)] else [] := by
  have hslot : (q.state == peTX || q.state == peRX) = true := by simpa using hst
  rcases Nat.lt_trichotomy i c.tSetup with h | rfl | h
  · simp [pulseOf, inSlot, h, h.ne]
  · simp [pulseOf, inSlot, mosiOf, hslot]
  · simp [pulseOf, inSlot, Nat.not_lt_of_gt h, h.ne', Nat.sub_ne_zero_of_lt h]

/-- A bit slot gives one pulse (R106). -/
theorem pulses_slot (ha : 1 ≤ c.tActive) (hst : q.state = peTX ∨ q.state = peRX) (tick : Nat → Nat) (tr : Nat → PeRegs)
    (h : ∀ i < slotCycles c, tr i = inSlot c q i) :
    ((List.range (slotCycles c)).flatMap fun i => pulseOf (tick i) (tr i)) = [(mosiOf (tick c.tSetup) q, q.dc)] := by
  have hcycle : ∀ i ∈ List.range (slotCycles c), pulseOf (tick i) (tr i)
      = if i = c.tSetup then [(mosiOf (tick i) q, q.dc)] else [] := fun i hi => by
    rw [h i (List.mem_range.1 hi), pulseOf_inSlot _ hst]
  rw [List.flatMap_congr hcycle]
  exact flatMap_range_at (fun i => [(mosiOf (tick i) q, q.dc)]) (Nat.lt_add_of_pos_right ha)

/-- A bit slot gives no response byte. -/
theorem emitted_slot (hst : q.state ≠ peEMIT) (tr : Nat → PeRegs) (h : ∀ i < slotCycles c, tr i = inSlot c q i) :
    ((List.range (slotCycles c)).flatMap fun i => emittedOf (tr i)) = [] :=
  List.flatMap_eq_nil_iff.2 fun i hi => by
    rw [h i (List.mem_range.1 hi)]
    exact emittedOf_of_ne hst

end

/-- The pulses of a request frame: the byte, most significant bit first, with dc the mode (R107, R141). -/
def requestPulses (r : Req) : List (Bool × Bool) := (List.range 8).map fun k => (r.data.getLsbD (7 - k), r.mode)

/-- The pulses of n response frames, with dc low; tick is that of the cycle after the acceptance (R108, R135, R141). -/
def responsePulses (c : Cfg) (tick n : Nat) : List (Bool × Bool) :=
  (List.range n).flatMap fun j => (List.range 8).map fun k =>
    (Config.drawMosi (tick + (byteCycles c + j * (byteCycles c + 1) + (k * slotCycles c + c.tSetup))), false)

@[simp] theorem length_requestPulses (r : Req) : (requestPulses r).length = 8 := by simp [requestPulses]

@[simp] theorem length_responsePulses (c : Cfg) (tick n : Nat) : (responsePulses c tick n).length = 8 * n := by
  simp [responsePulses, List.length_flatMap, Nat.mul_comm]

/-- dc is low through the response frames (R141). -/
theorem snd_of_mem_responsePulses {c : Cfg} {tick n : Nat} {q : Bool × Bool} (h : q ∈ responsePulses c tick n) : q.2 = false := by
  simp only [responsePulses, List.mem_flatMap, List.mem_map] at h
  obtain ⟨_, -, _, -, rfl⟩ := h
  rfl

section
variable {c : Cfg} (hs : 1 ≤ c.tSetup) (ha : 1 ≤ c.tActive) (ms : Nat → Bool) (p : PeRegs) (r : Req)
include hs ha

/-- Slot k of an accepted request's frame (R107). -/
theorem requestSlot_start {k : Nat} (hk : k < 8) :
    ∀ i < slotCycles c, peTrace c ms (peIdleRule (some r) p) (k * slotCycles c + i)
      = inSlot c { peIdleRule (some r) p with bit := 7#3 - BitVec.ofNat 3 k } i :=
  fun _ hi => peTrace_requestSlot hs ha hk hi

/-- Slot k of response byte j of an accepted request (R108). -/
theorem responseSlot_start {j k : Nat} (hj : j < r.rlen.toNat) (hk : k < 8) :
    ∃ q : PeRegs, q.state = peRX ∧ q.dc = false ∧ ∀ i < slotCycles c,
      peTrace c ms (peIdleRule (some r) p) (byteCycles c + j * (byteCycles c + 1) + (k * slotCycles c + i)) = inSlot c q i := by
  obtain ⟨q, hst, hdc, hslot⟩ := (atResponse_nth (ms := ms) (p := p) hs ha hj).slotStart hs ha hk
  exact ⟨q, hst, hdc, fun i hi => (peTrace_add _ _).trans (hslot i hi)⟩

/-- The pulses of a transaction are those of its request frame and of its response frames (R107, R108). -/
theorem pulses_transaction (tick : Nat) :
    ((List.range (transactionCycles c r.rlen.toNat)).flatMap fun i => pulseOf (tick + i) (peTrace c ms (peIdleRule (some r) p) i))
      = requestPulses r ++ responsePulses c tick r.rlen.toNat := by
  rw [flatMap_range_transaction, requestPulses, List.map_eq_flatMap, responsePulses]
  congr 1
  · refine List.flatMap_congr fun k hk => ?_
    have hk8 := List.mem_range.1 hk
    rw [pulses_slot ha (.inl rfl) _ _ (requestSlot_start hs ha ms p r hk8), mosiOf_tx (by rfl)]
    simp only [peIdleRule, toNat_bitIndex hk8]
  · refine List.flatMap_congr fun j hj => ?_
    have hj' := List.mem_range.1 hj
    obtain ⟨q, hq, hst, -⟩ := peTrace_responseEmit (ms := ms) (p := p) hs ha hj'
    rw [hq, pulseOf_emit _ hst, List.append_nil, List.map_eq_flatMap]
    refine List.flatMap_congr fun k hk => ?_
    obtain ⟨q, hst, hdc, hslot⟩ := responseSlot_start hs ha ms p r hj' (List.mem_range.1 hk)
    rw [pulses_slot ha (.inr hst) _ _ hslot, mosiOf_of_ne (by simp [hst]), hdc]

/-- The emit cycle of response byte j of an accepted request shows that byte (R136). -/
theorem emittedOf_responseEmit {j : Nat} (hj : j < r.rlen.toNat) :
    emittedOf (peTrace c (fun i => ms (1 + i)) (peIdleRule (some r) p)
      (byteCycles c + j * (byteCycles c + 1) + byteCycles c)) = [responseByte c ms j] := by
  obtain ⟨q, hq, hst, -, hrx⟩ := peTrace_responseEmit (ms := fun i => ms (1 + i)) (p := p) hs ha hj
  have hbyte : q.rx = responseByte c ms j := Byte.eq_of_bits fun k hk => by
    rw [hrx k hk, sampleCycle_eq hs, responseByte, getLsbD_sampledByte _ hk]
  rw [hq, emittedOf, if_pos hst, hbyte]

/-- The response stream of a transaction: its bytes in order (R108, R136). -/
theorem emitted_transaction :
    ((List.range (transactionCycles c r.rlen.toNat)).flatMap fun i =>
        emittedOf (peTrace c (fun i => ms (1 + i)) (peIdleRule (some r) p) i))
      = (List.range r.rlen.toNat).map (responseByte c ms) := by
  rw [flatMap_range_transaction]
  have hrequest : ((List.range 8).flatMap fun k => (List.range (slotCycles c)).flatMap fun i =>
      emittedOf (peTrace c (fun i => ms (1 + i)) (peIdleRule (some r) p) (k * slotCycles c + i))) = [] :=
    List.flatMap_eq_nil_iff.2 fun k hk =>
      emitted_slot (by simp [peIdleRule]) _ (requestSlot_start hs ha _ p r (List.mem_range.1 hk))
  rw [hrequest, List.nil_append, List.map_eq_flatMap]
  refine List.flatMap_congr fun j hj => ?_
  have hj' := List.mem_range.1 hj
  have hresponse : ((List.range 8).flatMap fun k => (List.range (slotCycles c)).flatMap fun i =>
      emittedOf (peTrace c (fun i => ms (1 + i)) (peIdleRule (some r) p)
        (byteCycles c + j * (byteCycles c + 1) + (k * slotCycles c + i)))) = [] :=
    List.flatMap_eq_nil_iff.2 fun k hk => by
      obtain ⟨q, hst, -, hslot⟩ := responseSlot_start hs ha (fun i => ms (1 + i)) p r hj' (List.mem_range.1 hk)
      exact emitted_slot (by simp [hst]) _ hslot
  rw [hresponse, List.nil_append, emittedOf_responseEmit hs ha ms p r hj']

end

end Sys2Proof.Machine

namespace Sys2Proof.Safety

open Sys2Proof.Machine

/-! A transaction as a run of the core. -/

/-- What an observer of each cycle's state sees in the next k cycles, in order. -/
def seenOver {α : Type} (f : State → List α) : Nat → State → List α
  | 0, _ => []
  | k + 1, s =>
    f s ++
      match step s with
      | .next t => seenOver f k t
      | .fault _ => []
      | .refused _ => []

section
variable {α : Type} {f : State → List α} {s t : State} {k n : Nat}

theorem seenOver_succ (h : step s = .next t) : seenOver f (k + 1) s = f s ++ seenOver f k t := by
  rw [seenOver, h]

/-- The last cycle of a run is seen last. -/
theorem seenOver_last (h : runFor n s = .next t) (hinv : Inv s) : seenOver f (n + 1) s = seenOver f n s ++ f t := by
  induction n generalizing s with
  | zero =>
    cases h
    obtain ⟨u, hu⟩ := step_of_inv hinv
    rw [seenOver_succ hu]
    simp [seenOver]
  | succ n ih =>
    obtain ⟨u, hu, hrest⟩ := runFor_succ_next.1 h
    rw [seenOver_succ hu, seenOver_succ hu, ih hrest (step_keeps_inv hinv hu), List.append_assoc]

/-- While the PE is busy, an observer of its registers and of the tick sees what its trace gives (R143). -/
theorem seenOver_busy {g : Nat → PeRegs → List α} (hf : ∀ s, f s = g s.tick s.pe) (hinv : Inv s) (hr : NoRst n s)
    (hb : ∀ k < n, (peTrace s.cfg s.misoAt s.pe k).state ≠ peIDLE) :
    seenOver f n s = (List.range n).flatMap fun k => g (s.tick + k) (peTrace s.cfg s.misoAt s.pe k) := by
  induction n with
  | zero => rfl
  | succ n ih =>
    obtain ⟨t, ht, -⟩ := runFor_of_inv hinv n
    have hr' := noRst_mono (Nat.le_succ n) hr
    have hb' : ∀ k < n, (peTrace s.cfg s.misoAt s.pe k).state ≠ peIDLE := fun k hk => hb k (Nat.lt_succ_of_lt hk)
    rw [seenOver_last ht hinv, ih hr' hb', List.range_succ, List.flatMap_append, List.flatMap_singleton, hf,
      runFor_pe ht hr' hb', (runFor_frame ht).2.2]

/-- A pulse is seen in the registers and the tick of its first cycle. -/
theorem pulsesOver_eq_seenOver (k : Nat) (s : State) : pulsesOver k s = seenOver (fun t => pulseOf t.tick t.pe) k s := by
  induction k generalizing s with
  | zero => rfl
  | succ k ih =>
    rw [pulsesOver, seenOver]
    congr 1
    cases step s with
    | next t => exact ih t
    | fault _ => rfl
    | refused _ => rfl

/-- A response byte is seen in the registers of its emit cycle. -/
theorem emittedOver_eq_seenOver (k : Nat) (s : State) : emittedOver k s = seenOver (fun t => emittedOf t.pe) k s := by
  induction k generalizing s with
  | zero => rfl
  | succ k ih =>
    rw [emittedOver, seenOver]
    congr 1
    · by_cases h : s.pe.state = peEMIT <;> simp [State.rspValid, State.rspData, emittedOf, h]
    · cases step s with
      | next t => exact ih t
      | fault _ => rfl
      | refused _ => rfl

end

section
variable {s : State} {r : Req}

/-- The cycle that accepts a request (R131). -/
theorem step_accepts (hinv : Inv s) (hready : s.reqReady = true) (hport : s.port = some r) (hr : s.rst = false) :
    ∃ u, step s = .next u ∧ Inv u ∧ u.cfg = s.cfg ∧ u.pe = peIdleRule (some r) s.pe
      ∧ u.misoAt = (fun i => s.misoAt (1 + i)) := by
  obtain ⟨u, hu⟩ := step_of_inv hinv
  refine ⟨u, hu, step_keeps_inv hinv hu, step_cfg hu, ?_, funext (runFor_misoAt (runFor_one s ▸ hu))⟩
  rw [step_pe hu hr, hport, peRule_idle (reqReady_iff.1 hready)]

/-- A transaction as a run of the core: the registers it leaves, its pulses and its response bytes (R138, R139). -/
theorem runFor_transaction (hinv : Inv s) (hready : s.reqReady = true) (hport : s.port = some r)
    (hr : NoRst (transactionCycles s.cfg r.rlen.toNat + 1) s) :
    ∃ t, runFor (transactionCycles s.cfg r.rlen.toNat + 1) s = .next t
      ∧ t.pe = transactionEnd s.cfg s.misoAt s.pe.rx r.data r.rlen
      ∧ pulsesOver (transactionCycles s.cfg r.rlen.toNat + 1) s
        = requestPulses r ++ responsePulses s.cfg (s.tick + 1) r.rlen.toNat
      ∧ emittedOver (transactionCycles s.cfg r.rlen.toNat + 1) s
        = (List.range r.rlen.toNat).map (responseByte s.cfg s.misoAt) := by
  have hs := Cfg.wf_tSetup hinv.1
  have ha := Cfg.wf_tActive hinv.1
  have hidle := reqReady_iff.1 hready
  obtain ⟨u, hu, huinv, hcfg, hpe, hmiso⟩ := step_accepts hinv hready hport (rst_of_noRst hr)
  have hru : NoRst (transactionCycles s.cfg r.rlen.toNat) u :=
    runFor_noRst (runFor_one s ▸ hu) (Nat.add_comm _ 1 ▸ hr)
  have hbusy : ∀ k < transactionCycles s.cfg r.rlen.toNat, (peTrace u.cfg u.misoAt u.pe k).state ≠ peIDLE := by
    intro k hk
    rw [hcfg, hpe, Ne, peTrace_idle_iff hs ha (peOk_accepted hs), peLeft_accepted]
    exact Nat.not_le_of_gt hk
  obtain ⟨t, ht, -⟩ := runFor_of_inv huinv (transactionCycles s.cfg r.rlen.toNat)
  refine ⟨t, by rw [runFor_succ hu, ht], ?_, ?_, ?_⟩
  · rw [runFor_pe ht hru hbusy, hcfg, hpe, hmiso, peTrace_transaction hs ha]
  · rw [pulsesOver_eq_seenOver, seenOver_succ hu, pulseOf_idle _ hidle, List.nil_append,
      seenOver_busy (g := pulseOf) (fun _ => rfl) huinv hru hbusy, hcfg, hpe, (step_inputs hu).2, pulses_transaction hs ha]
  · rw [emittedOver_eq_seenOver, seenOver_succ hu, emittedOf_of_ne (by simp [hidle]), List.nil_append,
      seenOver_busy (g := fun _ => emittedOf) (fun _ => rfl) huinv hru hbusy, hcfg, hpe, hmiso, emitted_transaction hs ha]

end

end Sys2Proof.Safety

namespace Sys2Proof.Proofs

open Sys2Proof.Machine Sys2Proof.Safety

/-- Settles O10: the outputs unfold to the registers; inside a bit slot neither pe_tx nor pe_bit moves. -/
theorem peOutputsAreMoore : Obligations.PeOutputsAreMoore := by
  constructor
  · intro s
    refine ⟨reqReady_iff, by simp [State.sclk], rfl, by simp [State.rspValid], ?_, ?_, ?_, ?_⟩
    · exact fun h => if_pos h
    · exact fun h => if_neg h
    · exact fun h => if_pos h
    · exact fun h => if_neg h
  · intro s t hst hr htx hin ha
    have hlast : ¬(s.pe.ph = .active ∧ s.pe.pcnt = s.cfg.tActive - 1) := fun ⟨hph, hpc⟩ => hin ⟨hph, by omega⟩
    obtain ⟨ph, n, hslot⟩ := bitSlotRule_inside (atEnd := txBitEnd) hlast
    have hpe : t.pe = { s.pe with ph := ph, pcnt := n } := by rw [step_pe hst hr, peRule_tx htx, peTxRule, hslot]
    have htx' : t.pe.state = peTX := by rw [hpe]; exact htx
    refine ⟨htx', ?_⟩
    rw [State.mosi, State.mosi, if_pos htx', if_pos htx, hpe]

/-- Settles O16: the four cases of a bit slot's cycle, and the bits of eight samples. -/
theorem peRxReceivesABitSlot : Obligations.PeRxReceivesABitSlot := by
  refine ⟨fun s => ?_, fun rx sample k hk => getLsbD_samples rx sample le_rfl hk⟩
  have hrow : exec .peRx s = .next (s.setPe (bitSlotRule s.cfg s.pe (rxBitEnd s.miso))) := rfl
  rw [hrow]
  refine ⟨⟨_, rfl⟩, fun hph h => ?_, fun hph h => ?_, fun hph h => ?_, fun hph h hb => ?_, fun hph h hb => ?_⟩
  · rw [bitSlotRule_setup_last hph h]
  · rw [bitSlotRule_setup_more hph h]
  · rw [bitSlotRule_active_more hph h]
  · rw [bitSlotRule_active_last hph h, rxBitEnd, if_pos hb]; rfl
  · rw [bitSlotRule_active_last hph h, rxBitEnd, if_neg (not_not_intro hb)]; rfl

/-- Settles O35: a PE row writes pe alone and an IS row is alone, so the rest reads as before. -/
theorem peAndIsRowsTouchTheirRegistersOnly : Obligations.PeAndIsRowsTouchTheirRegistersOnly := by
  intro s t i hst
  refine ⟨fun hpe => ?_, fun his => ?_, fun hboth => ?_⟩
  · obtain ⟨p, rfl⟩ := exec_peRow_next hpe hst
    rfl
  · obtain ⟨q, rfl⟩ := exec_isRow_next his hst
    rfl
  · have hrows : i ∈ [Instr.peIdle, .peTx, .peRx, .peEmit]
        ∨ i ∈ [Instr.isReset, .isWait, .isNext, .isCmd, .isParam, .isDone] := List.mem_append.1 hboth
    have hnext : (∃ p, t = s.setPe p) ∨ ∃ q, t = s.setIs q :=
      hrows.imp (exec_peRow_next · hst) (exec_isRow_next · hst)
    rcases hnext with ⟨_, rfl⟩ | ⟨_, rfl⟩ <;> exact ⟨rfl, rfl, rfl, rfl, rfl, rfl, rfl, fun _ => ⟨rfl, rfl⟩⟩

/-- Settles O41: the invariant has dc low outside TX, the acceptance takes the mode, and TX keeps it. -/
theorem modeLineHoldsTheMode : Obligations.ModeLineHoldsTheMode := by
  rintro s t ⟨-, -, ⟨-, -, -, -, -, hdc⟩, -⟩ hst hr
  refine ⟨hdc, fun r hready hport => ?_, fun htx htx' => ?_⟩
  · have hpe : t.pe = peIdleRule (some r) s.pe := by rw [step_pe hst hr, hport, peRule_idle (reqReady_iff.1 hready)]
    rw [State.dc, hpe]
    exact ⟨rfl, rfl⟩
  · have hpe : t.pe = peTxRule s.cfg s.pe := by rw [step_pe hst hr, peRule_tx htx]
    rw [State.dc, State.dc, hpe]
    exact peTxRule_dc (hpe ▸ htx')

/-- Settles O42: the PE's rule reads the port in IDLE only, and there it does not read miso. -/
theorem busyPeIgnoresThePort : Obligations.BusyPeIgnoresThePort := by
  intro s t s' t' hst hst' hr hr' hcfg hpe
  rw [step_pe hst hr, step_pe hst' hr', ← hcfg, ← hpe]
  refine ⟨fun hbusy hmiso => ⟨?_, ?_, ?_, ?_⟩, fun hready hport => ?_⟩
  · rw [← hmiso]
    exact peRule_port (reqReady_eq_false_iff.1 hbusy) _
  · simp [State.isFire, hbusy]
  · simp [State.spFire, hbusy]
  · simp [accepted, hbusy]
  · have hidle := reqReady_iff.1 hready
    rw [peRule_idle hidle, peRule_idle hidle, hport]

/-- Settles O14: the row is the rule of IDLE on what the port offers. -/
theorem peIdleAcceptsOrHolds : Obligations.PeIdleAcceptsOrHolds := by
  intro s
  have hrow : exec .peIdle s = .next (s.setPe (peIdleRule s.port s.pe)) := rfl
  rw [hrow]
  refine ⟨fun hv => ?_, fun hv => ?_⟩
  · rw [port_of_reqValid hv]
    rfl
  · rw [port_of_not_reqValid hv]
    rfl

/-- Settles O15: the four cases of a bit slot's cycle, and the three of a request bit's end. -/
theorem peTxSendsABitSlot : Obligations.PeTxSendsABitSlot := by
  intro s
  have hrow : exec .peTx s = .next (s.setPe (bitSlotRule s.cfg s.pe txBitEnd)) := rfl
  rw [hrow]
  refine ⟨⟨_, rfl⟩, fun hph h => ?_, fun hph h => ?_, fun hph h => ?_, fun hph h hb => ?_, fun hph h hb hrem => ?_,
    fun hph h hb hrem => ?_⟩
  · rw [bitSlotRule_setup_last hph h]
  · rw [bitSlotRule_setup_more hph h]
  · rw [bitSlotRule_active_more hph h]
  · rw [bitSlotRule_active_last hph h, txBitEnd, if_pos hb]
  · rw [bitSlotRule_active_last hph h, txBitEnd, if_neg (not_not_intro hb), if_pos hrem]
  · rw [bitSlotRule_active_last hph h, txBitEnd, if_neg (not_not_intro hb), if_neg hrem]

/-- Settles O17: the two cases of the emit rule, and the response stream's two lines in EMIT. -/
theorem peEmitLastsOneCycle : Obligations.PeEmitLastsOneCycle := by
  intro s
  have hrow : exec .peEmit s = .next (s.setPe (peEmitRule s.pe)) := rfl
  rw [hrow]
  refine ⟨fun h => ?_, fun h => ?_, fun hst => ⟨by simp [State.rspValid, hst], if_pos hst⟩, fun hst hok => ?_⟩
  · rw [peEmitRule, if_pos h, h]
    rfl
  · rw [peEmitRule, if_neg h]
  · obtain ⟨-, -, -, -, hrem, -⟩ := hok
    have hpos : s.pe.rem ≠ 0#4 := hrem (.inr hst)
    constructor <;> bv_omega

/-- Settles O30: the registers a transaction leaves do not depend on its mode, and pe_rx is the last sampled byte. -/
theorem transactionCompletes : Obligations.TransactionCompletes := by
  intro s d n hw hidle hr
  refine ⟨if n = 0#4 then s.pe.rx else responseByte s.cfg s.misoAt (n.toNat - 1), fun h => if_pos h, fun h k hk => ?_,
    fun i hi => exec_txn_of_idle hi hw hidle hr⟩
  rw [if_neg h]
  exact getLsbD_sampledByte _ hk

/-- Settles O31: the wait takes the cycles the PE has left, and the transaction begins from IDLE. -/
theorem transactionWaitsForIdle : Obligations.TransactionWaitsForIdle := by
  intro s d n hw hok hr i hi
  obtain ⟨ms, rx, hrow⟩ := exec_txn_of_peOk hi hw hok fun i hi => hr i (List.mem_of_mem_take hi)
  have hle := peLeft_le (Cfg.wf_tActive hw) hok
  exact ⟨_, _, rfl, rfl, rfl, rfl, by omega, hrow⟩

/-- Settles O52: the run and the row leave the same registers, and the run's pulses and bytes are those of the request and response
frames. -/
theorem stepsRunTheTransaction : Obligations.StepsRunTheTransaction := by
  intro s r hinv hready hport hr
  obtain ⟨t, hrun, hpe, hpulses, hbytes⟩ := runFor_transaction hinv hready hport hr
  refine ⟨t, _, hrun, exec_txn_of_idle (ite_eq_or_eq _ _ _) hinv.1 (reqReady_iff.1 hready) hr, hpe,
    reqReady_iff.2 (by rw [hpe]; rfl), ?_, ?_, ?_, ?_, ?_⟩
  · simp [hpulses]
  · rw [hpulses, List.take_left' (length_requestPulses r)]
    rfl
  · rw [hpulses, List.drop_left' (length_requestPulses r)]
    exact fun _ => snd_of_mem_responsePulses
  · simp [hbytes]
  · intro j b hb k hk
    rw [hbytes] at hb
    obtain ⟨_, rfl⟩ := List.getElem?_eq_some_iff.1 hb
    rw [List.getElem_map, List.getElem_range]
    exact getLsbD_sampledByte _ hk

end Sys2Proof.Proofs
end

section
/-! SUPPORT. The family of 41_init_sequencer.md: the Init Sequencer's rules case by case and its lines, what the PE alone does in an entry's
cycles, the entry rows in closed form, and bring-up as a run of the core: a cycle, a count, a byte, an entry, the table. -/

namespace Sys2Proof.Machine

open Sys2Proof.Safety

/-! The Init Sequencer's rules. -/

section
variable {c : Cfg} {r : IsRegs} {en : Entry}

/-- An index at which the table has an entry is below its length. -/
theorem lt_of_entry {e : Nat} (h : c.initTable[e]? = some en) : e < c.initTable.length := (List.getElem?_eq_some_iff.1 h).1

/-- The last cycle of a count (R171, R172). -/
theorem isCountRule_last {t : Nat} (after : BitVec 3) (h : r.cnt + 1 = t) :
    isCountRule c t after r = { r with cnt := 0, state := after } := by
  rw [isCountRule, if_pos (Nat.eq_sub_of_add_eq h)]

/-- A cycle of a count before its last one (R171, R172). -/
theorem isCountRule_more {t : Nat} (ht : t ≤ max c.tReset c.tRelease) (after : BitVec 3) (h : r.cnt + 1 < t) :
    isCountRule c t after r = { r with cnt := r.cnt + 1 } := by
  rw [isCountRule, if_neg (by omega), bump_isCnt ht h]

/-- At the end of the table IS_NEXT goes to DONE (R173). -/
theorem isNextRule_end (h : r.e = c.initTable.length) : isNextRule c r = { r with state := isDONE } := if_pos h

/-- IS_NEXT starts a sentinel's wait and is past its entry (R173). -/
theorem isNextRule_sentinel (he : c.initTable[r.e]? = some en) (hc : en.cmd = c.cmdNop) :
    isNextRule c r = { r with e := r.e + 1, cnt := 0, state := isWAIT } := by
  have hlt := lt_of_entry he
  rw [isNextRule, if_neg hlt.ne, romEntry_of_some he, if_pos hc, bump_entry hlt]

/-- IS_NEXT goes to the command of any other entry (R173). -/
theorem isNextRule_command (he : c.initTable[r.e]? = some en) (hc : en.cmd ≠ c.cmdNop) :
    isNextRule c r = { r with state := isCMD } := by
  rw [isNextRule, if_neg (lt_of_entry he).ne, romEntry_of_some he, if_neg hc]

/-- The command of an entry without parameters fires (R174). -/
theorem isCmdRule_alone (he : c.initTable[r.e]? = some en) (hp : en.params = []) :
    isCmdRule c true r = { r with e := r.e + 1, state := isNEXT } := by
  rw [isCmdRule, if_pos rfl, romEntry_of_some he, if_pos (by simp [hp]), bump_entry (lt_of_entry he)]

/-- The command of an entry with parameters fires (R174). -/
theorem isCmdRule_params (he : c.initTable[r.e]? = some en) (hp : en.params ≠ []) :
    isCmdRule c true r = { r with p := 0, state := isPARAM } := by
  rw [isCmdRule, if_pos rfl, romEntry_of_some he, if_neg (by simpa using hp)]

/-- The last parameter of an entry fires (R175). -/
theorem isParamRule_last (he : c.initTable[r.e]? = some en) (hp : r.p + 1 = en.params.length) :
    isParamRule c true r = { r with p := 0, e := r.e + 1, state := isNEXT } := by
  rw [isParamRule, if_pos rfl, romEntry_of_some he, if_pos hp, bump_entry (lt_of_entry he)]

/-- A parameter before the entry's last one fires (R175). -/
theorem isParamRule_more (he : c.initTable[r.e]? = some en) (hp : r.p + 1 < en.params.length) :
    isParamRule c true r = { r with p := r.p + 1 } := by
  rw [isParamRule, if_pos rfl, romEntry_of_some he, if_neg hp.ne,
    bump_param (lt_of_entry he) (by rwa [romEntry_of_some he])]

end

/-- The two counting states: what they count to and where they go (R171, R172). -/
inductive Counting (c : Cfg) : (state : BitVec 3) → (cycles : Nat) → (after : BitVec 3) → Prop where
  | reset : Counting c isRESET c.tReset isWAIT
  | wait : Counting c isWAIT c.tRelease isNEXT

section
variable {s : State} {x after : BitVec 3} {t : Nat} {en : Entry}

theorem Counting.le_max {c : Cfg} (h : Counting c x t after) : t ≤ max c.tReset c.tRelease := by
  cases h with
  | reset => exact le_max_left _ _
  | wait => exact le_max_right _ _

theorem isRule_counting (h : Counting s.cfg x t after) (hst : s.is.state = x) : isRule s = isCountRule s.cfg t after s.is := by
  cases h <;> simp [isRule, hst]

theorem isRule_next (hst : s.is.state = isNEXT) : isRule s = isNextRule s.cfg s.is := by simp [isRule, hst]
theorem isRule_cmd (hst : s.is.state = isCMD) : isRule s = isCmdRule s.cfg s.isFire s.is := by simp [isRule, hst]
theorem isRule_param (hst : s.is.state = isPARAM) : isRule s = isParamRule s.cfg s.isFire s.is := by simp [isRule, hst]

/-- A byte that does not fire is held: no register of the IS changes (R174, R175). -/
theorem isRule_of_not_fire (hst : s.is.state = isCMD ∨ s.is.state = isPARAM) (hf : s.isFire = false) : isRule s = s.is := by
  rcases hst with hst | hst
  · rw [isRule_cmd hst, hf]; rfl
  · rw [isRule_param hst, hf]; rfl

/-- No cycle without rst goes back to IS_RESET (R290). -/
theorem isRule_ne_reset (hst : s.is.state ≠ isRESET) : (isRule s).state ≠ isRESET := by
  unfold isRule
  split_ifs with h0 hwait hnext hcmd hparam
  · exact absurd h0 hst
  · rw [isCountRule]
    split_ifs <;> simp [hwait]
  · rw [isNextRule]
    split_ifs <;> simp
  · rw [isCmdRule]
    split_ifs <;> simp [hcmd]
  · rw [isParamRule]
    split_ifs <;> simp [hparam]
  · exact hst

/-! The Init Sequencer's lines (R170). -/

theorem done_iff : s.done = true ↔ s.is.state = isDONE := by simp [State.done]
theorem isRstN_iff : s.isRstN = true ↔ s.is.state ≠ isRESET := by simp [State.isRstN]
theorem isReqValid_iff : s.isReqValid = true ↔ s.is.state = isCMD ∨ s.is.state = isPARAM := by simp [State.isReqValid]

theorem done_eq_false_iff : s.done = false ↔ s.is.state ≠ isDONE := by rw [← Bool.not_eq_true, done_iff]

theorem isReqValid_eq_false_iff : s.isReqValid = false ↔ s.is.state ≠ isCMD ∧ s.is.state ≠ isPARAM := by
  rw [← Bool.not_eq_true, isReqValid_iff, not_or]

/-- The reset line is low in IS_RESET alone: there done is 0, and in IS_DONE the line is high as well (R37, R180). -/
theorem lcdRstN_eq (s : State) : s.lcdRstN = decide (s.is.state ≠ isRESET) := by
  rw [Bool.eq_iff_iff, decide_eq_true_iff]
  by_cases h : s.is.state = isDONE
  · simp [State.lcdRstN, done_iff.2 h, h]
  · rw [State.lcdRstN, done_eq_false_iff.2 h]
    exact isRstN_iff

/-- The request of a command byte (R116, R182). -/
def cmdReq (b : Byte) : Req := { data := b, mode := true, rlen := 0#4 }

/-- The request of a parameter byte (R116, R182). -/
def paramReq (b : Byte) : Req := { data := b, mode := false, rlen := 0#4 }

theorem entryRequests_eq (b : Byte) (ps : List Byte) : entryRequests b ps = cmdReq b :: ps.map paramReq := rfl

/-- IS_CMD's lines are the request of its entry's command byte (R174). -/
theorem isReq_cmd (hst : s.is.state = isCMD) (he : s.cfg.initTable[s.is.e]? = some en) : s.isReq = cmdReq en.cmd := by
  simp [State.isReq, cmdReq, hst, romEntry_of_some he]

/-- IS_PARAM's lines are the request of its entry's parameter byte (R175). -/
theorem isReq_param (hst : s.is.state = isPARAM) (he : s.cfg.initTable[s.is.e]? = some en) {b : Byte}
    (hb : en.params[s.is.p]? = some b) : s.isReq = paramReq b := by
  simp [State.isReq, paramReq, hst, romParam, romEntry_of_some he, hb]

/-- Without a request is_req_data is a draw (R170). -/
theorem isReq_data_of_not_valid (hc : s.is.state ≠ isCMD) (hp : s.is.state ≠ isPARAM) :
    s.isReq.data = Config.drawIsReqData s.tick := by simp [State.isReq, hc, hp]

end

/-- The byte that the IS offers with the registers i, and where it goes on when the byte fires (R174, R175). -/
inductive Offers (c : Cfg) (i : IsRegs) : Req → IsRegs → Prop where
  | cmd {en : Entry} (he : c.initTable[i.e]? = some en) (hst : i.state = isCMD) (hp : en.params = []) :
      Offers c i (cmdReq en.cmd) { i with e := i.e + 1, state := isNEXT }
  | cmdOfParams {en : Entry} (he : c.initTable[i.e]? = some en) (hst : i.state = isCMD) (hp : en.params ≠ []) :
      Offers c i (cmdReq en.cmd) { i with p := 0, state := isPARAM }
  | param {en : Entry} {b : Byte} (he : c.initTable[i.e]? = some en) (hst : i.state = isPARAM) (hb : en.params[i.p]? = some b)
      (hp : i.p + 1 < en.params.length) : Offers c i (paramReq b) { i with p := i.p + 1 }
  | lastParam {en : Entry} {b : Byte} (he : c.initTable[i.e]? = some en) (hst : i.state = isPARAM)
      (hb : en.params[i.p]? = some b) (hp : i.p + 1 = en.params.length) :
      Offers c i (paramReq b) { i with p := 0, e := i.e + 1, state := isNEXT }

section
variable {s : State} {r : Req} {q : IsRegs}

theorem Offers.state (h : Offers s.cfg s.is r q) : s.is.state = isCMD ∨ s.is.state = isPARAM := by
  cases h with
  | cmd _ hst | cmdOfParams _ hst => exact .inl hst
  | param _ hst | lastParam _ hst => exact .inr hst

theorem Offers.isReq_eq (h : Offers s.cfg s.is r q) : s.isReq = r := by
  cases h with
  | cmd he hst | cmdOfParams he hst => exact isReq_cmd hst he
  | param he hst hb | lastParam he hst hb => exact isReq_param hst he hb

theorem Offers.isRule_eq (h : Offers s.cfg s.is r q) (hf : s.isFire = true) : isRule s = q := by
  cases h with
  | cmd he hst hp => rw [isRule_cmd hst, hf, isCmdRule_alone he hp]
  | cmdOfParams he hst hp => rw [isRule_cmd hst, hf, isCmdRule_params he hp]
  | param he hst hb hp => rw [isRule_param hst, hf, isParamRule_more he hp]
  | lastParam he hst hb hp => rw [isRule_param hst, hf, isParamRule_last he hp]

end

/-! The response stream. -/

/-- Whatever the phase counter holds, a cycle of a bit slot moves the phase and its counter alone, or ends the slot (R106). -/
theorem bitSlotRule_inside_or_end (c : Cfg) (p : PeRegs) (atEnd : PeRegs → PeRegs) :
    (∃ ph n, bitSlotRule c p atEnd = { p with ph := ph, pcnt := n })
      ∨ bitSlotRule c p atEnd = atEnd { p with pcnt := 0, ph := .setup } := by
  by_cases hlast : p.ph = .active ∧ p.pcnt = c.tActive - 1
  · exact .inr (by simp [bitSlotRule, hlast])
  · exact .inl (bitSlotRule_inside hlast)

/-- A PE with nothing to receive that takes in requests for no response byte stays so (R182, R300). -/
theorem peRule_keeps_silent {c : Cfg} {o : Option Req} {m : Bool} {p : PeRegs} (hrem : p.rem = 0#4)
    (hst : p.state = peIDLE ∨ p.state = peTX) (ho : ∀ r, o = some r → r.rlen = 0#4) :
    (peRule c o m p).rem = 0#4 ∧ ((peRule c o m p).state = peIDLE ∨ (peRule c o m p).state = peTX) := by
  rcases hst with hst | hst
  · rw [peRule_idle hst]
    cases o with
    | none => exact ⟨hrem, .inl hst⟩
    | some r => exact ⟨ho r rfl, .inr rfl⟩
  · rw [peRule_tx hst, peTxRule]
    obtain ⟨ph, n, heq⟩ | heq := bitSlotRule_inside_or_end c p txBitEnd <;> rw [heq]
    · exact ⟨hrem, .inr hst⟩
    · rw [txBitEnd]
      split_ifs with hbit
      · exact ⟨hrem, .inr hst⟩
      · exact ⟨hrem, .inl rfl⟩

/-- A step of the core alone keeps it silent (R182, R201, R300). -/
theorem step_keeps_silent {s t : State} (h : Silent s) (hst : step s = .next t) : Silent t := by
  obtain ⟨he, hrem, hpe⟩ := h
  obtain ⟨-, ⟨-, rfl⟩ | ⟨-, _, _, _, -, -, -, -, hpe', -, -, -, -, hext, -⟩⟩ := step_next hst
  · exact ⟨he, rfl, .inl rfl⟩
  · have hport : ∀ r, s.port = some r → r.rlen = 0#4 := fun _ => port_rlen he
    refine ⟨?_, hpe' ▸ peRule_keeps_silent hrem hpe hport⟩
    simp [hext, extAfter_eq, he]

/-- A silent state shows no response byte (R33). -/
theorem rspValid_of_silent {s : State} (h : Silent s) : s.rspValid = false := by
  obtain ⟨-, -, hst | hst⟩ := h <;> simp [State.rspValid, hst]

/-! The PE alone in an entry's cycles. -/

/-- s after n cycles of the PE alone with nothing offered to it (R172). -/
def State.peWaited (s : State) (n : Nat) : State := s.peRan n (peTrace s.cfg s.misoAt s.pe n)

/-- s after a cycle in which the PE, in IDLE, takes a request in (R131). -/
def State.peAccepted (s : State) (r : Req) : State := s.peRan 1 (peIdleRule (some r) s.pe)

/-- s after a request has been on the port until a PE of the invariant took it in (R143). -/
def State.submitted (s : State) (r : Req) : State := (s.peWaited (peLeft s.cfg s.pe)).peAccepted r

section
variable {s : State} {q : IsRegs} {p : PeRegs} {a b n : Nat} {r : Req}

@[simp] theorem State.peRan_setIs : (s.setIs q).peRan n p = (s.peRan n p).setIs q := rfl
@[simp] theorem State.peWaited_cfg : (s.peWaited n).cfg = s.cfg := rfl
@[simp] theorem State.peWaited_pe : (s.peWaited n).pe = peTrace s.cfg s.misoAt s.pe n := rfl
@[simp] theorem State.peWaited_setIs : (s.setIs q).peWaited n = (s.peWaited n).setIs q := rfl

@[simp] theorem State.peWaited_zero : s.peWaited 0 = s := rfl

/-- A wait goes on from where it is. -/
@[simp] theorem State.peWaited_peWaited : (s.peWaited a).peWaited b = s.peWaited (a + b) := by
  have hmiso : (s.peWaited a).misoAt = fun k => s.misoAt (a + k) := funext fun _ => State.peRan_misoAt
  rw [State.peWaited, hmiso, State.peWaited_cfg, State.peWaited_pe, ← peTrace_add]
  exact State.peRan_peRan

/-- Without rst the waiting cycles of a row are such a wait. -/
theorem waitCycles_eq (h : NoRst n s) : waitCycles n s = .ok (s.peWaited n) := waitCycles_ok n s h

/-- With nothing offered an idle PE stays as it is (R131). -/
theorem State.peWaited_idle (h : s.pe.state = peIDLE) : s.peWaited n = s.peRan n s.pe := by
  rw [State.peWaited, peTrace_idle h]

/-- An idle PE takes a request in at once. -/
theorem State.submitted_idle (h : s.pe.state = peIDLE) : s.submitted r = s.peAccepted r := by
  rw [State.submitted, peLeft_idle h, State.peWaited_zero]

/-- A PE of the invariant, or any PE in IDLE, has waited for IDLE when its cycles are over (R145). -/
theorem runToIdle_eq_peWaited (hw : s.cfg.wf = true) (h : s.pe.state ≠ peIDLE → PeOk s.cfg s.pe) (hr : NoRst (peLeft s.cfg s.pe) s) :
    runToIdle (peBusyBound s.cfg) s = .ok (s.peWaited (peLeft s.cfg s.pe))
      ∧ (s.peWaited (peLeft s.cfg s.pe)).pe.state = peIDLE := by
  by_cases hidle : s.pe.state = peIDLE
  · rw [runToIdle_idle hidle, peLeft_idle hidle, State.peWaited_zero]
    exact ⟨rfl, hidle⟩
  · exact ⟨runToIdle_of_peOk hw (h hidle) hr, (peTrace_idle_iff (Cfg.wf_tSetup hw) (Cfg.wf_tActive hw) (h hidle)).2 le_rfl⟩

/-- Without rst the submission of a row waits for IDLE and is taken in (R143, log entry 7). -/
theorem submit_eq (hw : s.cfg.wf = true) (h : s.pe.state ≠ peIDLE → PeOk s.cfg s.pe) (hr : NoRst (peLeft s.cfg s.pe + 1) s) :
    submit r s = .ok (s.submitted r) := by
  obtain ⟨hwait, hidle⟩ := runToIdle_eq_peWaited hw h (noRst_mono (Nat.le_succ _) hr)
  have hrst : (s.peWaited (peLeft s.cfg s.pe)).rst = false := rst_of_noRst (n := 0) (State.peRan_noRst hr)
  have haccept := peCycle_of_rst_low (some r) hrst
  rw [peRule_idle hidle] at haccept
  rw [submit, hwait]
  exact haccept

/-- The PE has just taken in r, a request for no response byte. -/
structure JustAccepted (r : Req) (s : State) : Prop where
  pe : s.pe = peIdleRule (some r) s.pe
  rlen : r.rlen = 0#4

theorem justAccepted_submitted (hr : r.rlen = 0#4) : JustAccepted r (s.submitted r) := ⟨rfl, hr⟩

theorem JustAccepted.setIs (h : JustAccepted r s) : JustAccepted r (s.setIs q) := ⟨h.pe, h.rlen⟩

/-- Just after an acceptance the request frame is left (R144). -/
theorem JustAccepted.peLeft_eq (h : JustAccepted r s) : peLeft s.cfg s.pe = byteCycles s.cfg := by
  rw [h.pe, peLeft_accepted, h.rlen]
  simp [transactionCycles]

theorem JustAccepted.peOk (h : JustAccepted r s) (hs : 1 ≤ s.cfg.tSetup) : PeOk s.cfg s.pe := by
  rw [h.pe]
  exact peOk_accepted hs

/-- The next request is taken in B + 1 cycles after the last one (R144, R177). -/
theorem JustAccepted.submitted_eq (h : JustAccepted r s) (hw : s.cfg.wf = true) (r' : Req) :
    s.submitted r' = s.peRan (byteCycles s.cfg + 1) (peIdleRule (some r') s.pe) := by
  have hframe : peTrace s.cfg s.misoAt s.pe (byteCycles s.cfg)
      = { peIdleRule (some r) s.pe with bit := 0#3, dc := false, state := peIDLE } := by
    rw [h.pe, byteCycles, slotCycles, peTrace_requestFrame (Cfg.wf_tSetup hw) (Cfg.wf_tActive hw) rfl rfl rfl rfl,
      if_pos (by exact h.rlen)]
    rfl
  rw [State.submitted, h.peLeft_eq, State.peAccepted, State.peWaited_pe, hframe, State.peWaited, State.peRan_peRan]
  rfl

/-- s, where r has just been taken in, after the requests rs one after another (R177). -/
def State.streamed (s : State) (r : Req) (rs : List Req) : State :=
  s.peRan (rs.length * (byteCycles s.cfg + 1)) (peIdleRule (some (rs.getLastD r)) s.pe)

theorem JustAccepted.streamed_nil (h : JustAccepted r s) : s.streamed r [] = s := by
  rw [State.streamed, List.getLastD_nil, ← h.pe, List.length_nil, Nat.zero_mul]
  rfl

theorem JustAccepted.streamed_cons (h : JustAccepted r s) (hw : s.cfg.wf = true) (r' : Req) (rs : List Req) :
    s.streamed r (r' :: rs) = (s.submitted r').streamed r' rs := by
  rw [h.submitted_eq hw, State.streamed, State.streamed, State.peRan_peRan, List.length_cons, List.getLastD_cons, State.peRan_cfg,
    Nat.add_mul, Nat.one_mul, Nat.add_comm (rs.length * _)]
  rfl

end

/-! The entry rows in closed form. -/

/-- s after the dispatch cycle of an entry and the acceptance of each of its bytes (R177). -/
def State.entrySent (s : State) (cmd : Byte) (ps : List Byte) : State :=
  ((s.peWaited 1).submitted (cmdReq cmd)).streamed (cmdReq cmd) (ps.map paramReq)

/-- The cycles of an entry with the parameters ps, from its dispatch to the acceptance of its last byte (R177). -/
def entrySpan (s : State) (ps : List Byte) : Nat :=
  1 + (peLeft s.cfg (s.peWaited 1).pe + 1 + ps.length * (byteCycles s.cfg + 1))

/-- The last request of an entry (R116, R177). -/
def lastRequest (cmd : Byte) (ps : List Byte) : Req := { data := ps.getLastD cmd, mode := ps.isEmpty, rlen := 0#4 }

section
variable {s : State} {r : Req} {cmd : Byte} {ps : List Byte}

theorem getLastD_params (cmd : Byte) (ps : List Byte) : (ps.map paramReq).getLastD (cmdReq cmd) = lastRequest cmd ps := by
  rcases List.eq_nil_or_concat ps with rfl | ⟨l, b, rfl⟩
  · rfl
  · simp [lastRequest, paramReq]

theorem State.submitted_eq_peRan :
    s.submitted r = s.peRan (peLeft s.cfg s.pe + 1) (peIdleRule (some r) (peTrace s.cfg s.misoAt s.pe (peLeft s.cfg s.pe))) :=
  State.peRan_peRan

/-- An entry takes its span of cycles, and leaves the PE with its last request just taken in (R177). -/
theorem State.entrySent_eq_peRan :
    s.entrySent cmd ps
      = s.peRan (entrySpan s ps) (peIdleRule (some (lastRequest cmd ps)) ((s.peWaited 1).submitted (cmdReq cmd)).pe) := by
  have hcommand : (s.peWaited 1).submitted (cmdReq cmd)
      = s.peRan (1 + (peLeft s.cfg (s.peWaited 1).pe + 1)) ((s.peWaited 1).submitted (cmdReq cmd)).pe := by
    rw [State.submitted_eq_peRan]
    exact State.peRan_peRan
  rw [State.entrySent, State.streamed, getLastD_params, List.length_map, entrySpan, ← Nat.add_assoc, ← State.peRan_peRan, ← hcommand]
  rfl

/-- Just after an entry's last byte its request frame is left (R144). -/
theorem peLeft_lastRequest {c : Cfg} {p : PeRegs} : peLeft c (peIdleRule (some (lastRequest cmd ps)) p) = byteCycles c := by
  rw [peLeft_accepted]
  simp [lastRequest, transactionCycles]

/-- The parameters' submissions after the command's (R177). -/
theorem submitAll_eq (hw : s.cfg.wf = true) (h : JustAccepted r s) (hr : NoRst (ps.length * (byteCycles s.cfg + 1)) s) :
    submitAll (ps.map paramReq) s = .ok (s.streamed r (ps.map paramReq)) := by
  induction ps generalizing s r with
  | nil => rw [List.map_nil, h.streamed_nil]; rfl
  | cons b ps ih =>
    rw [List.length_cons, Nat.add_mul, Nat.one_mul, Nat.add_comm] at hr
    have hsubmit : submit (paramReq b) s = .ok (s.submitted (paramReq b)) :=
      submit_eq hw (fun _ => h.peOk (Cfg.wf_tSetup hw)) (by rw [h.peLeft_eq]; exact noRst_mono (Nat.le_add_right _ _) hr)
    have hrest : NoRst (ps.length * (byteCycles s.cfg + 1)) (s.submitted (paramReq b)) := by
      rw [h.submitted_eq hw]
      exact State.peRan_noRst hr
    rw [List.map_cons, submitAll, hsubmit, h.streamed_cons hw]
    exact ih hw (justAccepted_submitted rfl) hrest

/-- INIT_NOP in closed form (R178). -/
theorem exec_initNop_eq (he : s.is.e < s.cfg.initTable.length) (hr : NoRst (s.cfg.tRelease + 1) s) :
    exec .initNop s
      = .next ((s.peWaited (s.cfg.tRelease + 1)).setIs { s.is with state := isNEXT, cnt := 0, e := s.is.e + 1 }) := by
  have hrow : exec .initNop s = finish ((waitCycles (s.cfg.tRelease + 1) s).map fun t =>
      t.setIs { s.is with state := isNEXT, cnt := 0, e := bump (entryWidth s.cfg) s.is.e }) := rfl
  rw [hrow, waitCycles_eq hr, bump_entry he]
  rfl

/-- INIT_CMD in closed form (R177). -/
theorem exec_initCmd_eq (hw : s.cfg.wf = true) (hok : s.pe.state ≠ peIDLE → PeOk s.cfg s.pe) (he : s.is.e < s.cfg.initTable.length)
    (hr : NoRst (entrySpan s ps) s) :
    exec (.initCmd cmd ps) s
      = .next ((s.entrySent cmd ps).setIs
          { s.is with state := isNEXT, e := s.is.e + 1, p := if ps.isEmpty then s.is.p else 0 }) := by
  have hdispatch : peCycle none s = .ok (s.peWaited 1) :=
    peCycle_of_rst_low none (rst_of_noRst (n := 0) (noRst_mono (Nat.le_add_right _ _) hr))
  have hok' : (s.peWaited 1).pe.state ≠ peIDLE → PeOk s.cfg (s.peWaited 1).pe := fun hbusy =>
    peTrace_keeps_peOk (Cfg.wf_tSetup hw) (Cfg.wf_tActive hw) (hok (peTrace_busy (Nat.zero_le 1) hbusy)) 1
  have hr' := State.peRan_noRst (p := (s.peWaited 1).pe) hr
  have hcommand : submit (cmdReq cmd) (s.peWaited 1) = .ok ((s.peWaited 1).submitted (cmdReq cmd)) :=
    submit_eq hw hok' (noRst_mono (Nat.le_add_right _ _) hr')
  have hparams : NoRst (ps.length * (byteCycles s.cfg + 1)) ((s.peWaited 1).submitted (cmdReq cmd)) := by
    rw [State.submitted_eq_peRan]
    exact State.peRan_noRst hr'
  have hbytes : submitAll (entryRequests cmd ps) (s.peWaited 1) = .ok (s.entrySent cmd ps) := by
    rw [entryRequests_eq, submitAll, hcommand]
    exact submitAll_eq hw (justAccepted_submitted rfl) hparams
  have hrow : exec (.initCmd cmd ps) s = finish (((peCycle none s).bind (submitAll (entryRequests cmd ps))).map fun t =>
      t.setIs { s.is with
        state := isNEXT
        e := bump (entryWidth s.cfg) s.is.e
        p := if ps.isEmpty then s.is.p else 0 }) := rfl
  rw [hrow, hdispatch, Except.bind, hbytes, bump_entry he]
  rfl

end

end Sys2Proof.Machine

namespace Sys2Proof.Safety

open Sys2Proof.Machine

/-! Bring-up as a run of the core. -/

/-- The rest of a list from an index on begins with the element at that index. -/
theorem getElem?_of_drop {α : Type} {l t : List α} {a : α} {i : Nat} (h : l.drop i = a :: t) : l[i]? = some a := by
  rw [← List.head?_drop, h, List.head?_cons]

/-- How long a list is, from how much of it is left. -/
theorem length_of_drop {α : Type} {l t : List α} {a : α} {i : Nat} (h : l.drop i = a :: t) : l.length = i + t.length + 1 := by
  have hlen := congrArg List.length h
  rw [List.length_drop, List.length_cons] at hlen
  omega

section
variable {s t u : State} {n m : Nat} {rs rs' : List Req}

/-- A run keeps the invariant. -/
theorem inv_of_runFor (h : Inv s) (hrun : runFor n s = .next t) : Inv t := by
  obtain ⟨u, hu, hinv⟩ := runFor_of_inv h n
  cases hrun.symm.trans hu
  exact hinv

theorem acceptedOver_succ {k : Nat} (h : step s = .next t) : acceptedOver (k + 1) s = accepted s ++ acceptedOver k t := by
  rw [acceptedOver, h]

/-- n steps of the core go from s to t and accept the requests rs meanwhile, in order. -/
structure Sends (n : Nat) (s : State) (rs : List Req) (t : State) : Prop where
  run : runFor n s = .next t
  stream : acceptedOver n s = rs

theorem Sends.refl (s : State) : Sends 0 s [] s := ⟨rfl, rfl⟩

theorem Sends.of_step (h : step s = .next t) : Sends 1 s (accepted s) t :=
  ⟨by rw [runFor_one, h], by rw [acceptedOver_succ h, acceptedOver, List.append_nil]⟩

/-- One run after another. -/
theorem Sends.trans (h : Sends n s rs t) (h' : Sends m t rs' u) : Sends (n + m) s (rs ++ rs') u := by
  refine ⟨runFor_add_next.2 ⟨t, h.run, h'.run⟩, ?_⟩
  induction n generalizing s rs with
  | zero =>
    obtain ⟨hrun, hstream⟩ := h
    cases hrun
    rw [← hstream, Nat.zero_add, h'.stream]
    rfl
  | succ n ih =>
    obtain ⟨hrun, rfl⟩ := h
    obtain ⟨v, hv, hrest⟩ := runFor_succ_next.1 hrun
    rw [Nat.add_right_comm, acceptedOver_succ hv, acceptedOver_succ hv, ih ⟨hrest, rfl⟩, List.append_assoc]

end

/-- A state of the core alone during bring-up: no external producer, done = 0, and rst low in every cycle to come. -/
structure InBringup (s : State) : Prop where
  inv : Inv s
  alone : s.extReqs = []
  notDone : s.is.state ≠ isDONE
  rstLow : ∀ i ∈ s.inputs, i.rst = false

section
variable {s t : State} {n : Nat} {rs : List Req} {en : Entry}

theorem InBringup.noRst (h : InBringup s) (n : Nat) : NoRst n s := fun i hi => h.rstLow i (List.mem_of_mem_take hi)

theorem InBringup.rst (h : InBringup s) : s.rst = false := rst_of_noRst (h.noRst 1)

theorem InBringup.done (h : InBringup s) : s.done = false := done_eq_false_iff.2 h.notDone

/-- What a cycle of bring-up does: the PE and the IS move, the SP and the banks stand still (R202). -/
theorem InBringup.step_eq (h : InBringup s) :
    step s = .next ((s.peRan 1 (peRule s.cfg s.port s.miso s.pe)).setIs (isRule s)) := by
  have hr := h.rst
  have hd := h.done
  obtain ⟨⟨hw, -, -, ⟨hcode, -⟩, hsp, hdone⟩, he, -, -⟩ := h
  obtain ⟨j, hj⟩ := decodeIsState_of_listed hcode
  have hphase : s.sp.phase = spBRINGUP := by
    by_contra hne
    simp [hdone hne] at hd
  have hk : decodeSpState (s.sp.phase ++ s.sp.sub) = .ok .spBringup := by
    rw [spCode_of_fields hphase ((spOk_start_iff (.inl hphase)).1 hsp).1]
    rfl
  have hrow : exec .spBringup s = .next s := by
    show spCommit s (if s.done then _ else s.sp) .quiet .quiet = _
    simp [hd]
  have hext : s.extAfter = s.extReqs := by simp [extAfter_eq, he]
  rw [step_of_fetch hw hr hj hk, hrow, joinCycle_next, hext]
  simp [State.peRan, State.advance, State.setPe, State.setIs]

/-- A run keeps bring-up as long as done is 0. -/
theorem InBringup.of_sends (h : InBringup s) (hrun : Sends n s rs t) (he : t.extReqs = []) (hd : t.is.state ≠ isDONE) :
    InBringup t := by
  refine ⟨inv_of_runFor h.inv hrun.run, he, hd, fun i hi => h.rstLow i ?_⟩
  rw [(runFor_frame hrun.run).2.1] at hi
  exact List.mem_of_mem_drop hi

/-- During bring-up the port is the IS's (R36). -/
theorem InBringup.port_eq (h : InBringup s) : s.port = if s.isReqValid then some s.isReq else none := by
  simp [State.port, State.reqValid, State.reqLines, selected_of_not_done h.alone h.done]

theorem InBringup.isFire_eq (h : InBringup s) : s.isFire = (s.isReqValid && s.reqReady) := by
  simp [State.isFire, selected_of_not_done h.alone h.done]

theorem InBringup.accepted_eq (h : InBringup s) : accepted s = if s.isReqValid && s.reqReady then [s.isReq] else [] := by
  rw [Safety.accepted, h.port_eq, h.rst]
  cases s.isReqValid <;> cases s.reqReady <;> rfl

/-- A cycle in which no byte fires: the PE goes on with nothing offered to it (R143, R172). -/
theorem InBringup.sends_quiet (h : InBringup s) (hq : (s.isReqValid && s.reqReady) = false) :
    Sends 1 s [] ((s.peWaited 1).setIs (isRule s)) := by
  have hacc : accepted s = [] := by rw [h.accepted_eq, hq]; rfl
  have hpe : peRule s.cfg s.port s.miso s.pe = peRule s.cfg none s.miso s.pe := by
    rcases Bool.and_eq_false_iff.1 hq with hv | hb
    · rw [h.port_eq, hv]
      rfl
    · exact peRule_port (reqReady_eq_false_iff.1 hb) none
  rw [← hacc]
  refine Sends.of_step ?_
  rw [h.step_eq, hpe]
  rfl

/-- A counting cycle (R171, R172). -/
theorem InBringup.sends_countCycle {x after : BitVec 3} {k : Nat} (h : InBringup s) (hc : Counting s.cfg x k after)
    (hst : s.is.state = x) : Sends 1 s [] ((s.peWaited 1).setIs (isCountRule s.cfg k after s.is)) := by
  have hv : s.isReqValid = false := isReqValid_eq_false_iff.2 (by cases hc <;> simp [hst])
  rw [← isRule_counting hc hst]
  exact h.sends_quiet (by simp [hv])

/-- The rest of a count: n + 1 cycles in which nothing is offered (R171, R172). -/
theorem InBringup.sends_count {x after : BitVec 3} {k : Nat} (h : InBringup s) (hc : Counting s.cfg x k after)
    (hst : s.is.state = x) (hn : s.is.cnt + (n + 1) = k) :
    Sends (n + 1) s [] ((s.peWaited (n + 1)).setIs { s.is with cnt := 0, state := after }) := by
  have hcycle := h.sends_countCycle hc hst
  induction n generalizing s with
  | zero => rwa [isCountRule_last after hn] at hcycle
  | succ n ih =>
    rw [isCountRule_more hc.le_max after (by omega)] at hcycle
    have hnext := h.of_sends hcycle h.alone h.notDone
    have hrest := ih hnext (by exact hc) (by exact hst) (by rw [← hn]; show s.is.cnt + 1 + _ = _; omega)
      (hnext.sends_countCycle (by exact hc) (by exact hst))
    have hall := hcycle.trans hrest
    rwa [Nat.add_comm 1, State.peWaited_setIs, State.peWaited_peWaited, Nat.add_comm 1] at hall

/-- A byte on the port of a busy PE is held as long as the PE is busy (R174, R175). -/
theorem InBringup.sends_hold (h : InBringup s) (hst : s.is.state = isCMD ∨ s.is.state = isPARAM)
    (hn : n ≤ peLeft s.cfg s.pe) : Sends n s [] (s.peWaited n) := by
  obtain ⟨hw, -, hok, -⟩ := h.inv
  induction n with
  | zero => exact Sends.refl s
  | succ n ih =>
    have hbefore := ih (Nat.le_of_succ_le hn)
    have hmid := h.of_sends hbefore h.alone h.notDone
    have hbusy : (s.peWaited n).reqReady = false := by
      rw [reqReady_eq_false_iff, State.peWaited_pe, Ne, peTrace_idle_iff (Cfg.wf_tSetup hw) (Cfg.wf_tActive hw) hok]
      omega
    have hheld : isRule (s.peWaited n) = s.is :=
      isRule_of_not_fire (s := s.peWaited n) hst (by rw [hmid.isFire_eq, hbusy, Bool.and_false])
    have hcycle := hmid.sends_quiet (by rw [hbusy, Bool.and_false])
    rw [hheld, State.peWaited_peWaited] at hcycle
    exact hbefore.trans hcycle

/-- A byte on the port of a ready PE is taken in (R131, R174, R175). -/
theorem InBringup.sends_fire {r : Req} {q : IsRegs} (h : InBringup s) (ho : Offers s.cfg s.is r q) (hready : s.reqReady = true) :
    Sends 1 s [r] ((s.peAccepted r).setIs q) := by
  have hv : s.isReqValid = true := isReqValid_iff.2 ho.state
  have hfire : s.isFire = true := by rw [h.isFire_eq, hv, hready]; rfl
  have hacc : accepted s = [r] := by rw [h.accepted_eq, hv, hready, ho.isReq_eq]; rfl
  have hport : s.port = some r := by rw [h.port_eq, hv, ho.isReq_eq]; rfl
  rw [← hacc]
  refine Sends.of_step ?_
  rw [h.step_eq, hport, peRule_idle (reqReady_iff.1 hready), ho.isRule_eq hfire]
  rfl

/-- A byte of the IS, from its first cycle on the port to its acceptance (R174, R175). -/
theorem InBringup.sends_byte {r : Req} {q : IsRegs} (h : InBringup s) (ho : Offers s.cfg s.is r q) :
    Sends (peLeft s.cfg s.pe + 1) s [r] ((s.submitted r).setIs q) := by
  obtain ⟨hw, -, hok, -⟩ := h.inv
  have hhold := h.sends_hold ho.state le_rfl
  have hready : (s.peWaited (peLeft s.cfg s.pe)).reqReady = true :=
    reqReady_iff.2 ((peTrace_idle_iff (Cfg.wf_tSetup hw) (Cfg.wf_tActive hw) hok).2 le_rfl)
  exact hhold.trans ((h.of_sends hhold h.alone h.notDone).sends_fire ho hready)

/-- The parameters of an entry from is_p on, after an acceptance (R175, R177). -/
theorem InBringup.sends_params {r : Req} {b : Byte} {ps : List Byte} (h : InBringup s) (ha : JustAccepted r s)
    (he : s.cfg.initTable[s.is.e]? = some en) (hst : s.is.state = isPARAM) (hps : en.params.drop s.is.p = b :: ps) :
    Sends ((b :: ps).length * (byteCycles s.cfg + 1)) s ((b :: ps).map paramReq)
      ((s.streamed r ((b :: ps).map paramReq)).setIs { s.is with p := 0, e := s.is.e + 1, state := isNEXT }) := by
  have hw := h.inv.1
  induction ps generalizing s r b with
  | nil =>
    have hbyte := h.sends_byte (.lastParam he hst (getElem?_of_drop hps) (length_of_drop hps).symm)
    rw [ha.peLeft_eq] at hbyte
    rw [List.map_cons, ha.streamed_cons hw, List.map_nil, (justAccepted_submitted rfl).streamed_nil, List.length_singleton,
      Nat.one_mul]
    exact hbyte
  | cons b' ps ih =>
    have hlen := length_of_drop hps
    have hbyte := h.sends_byte (.param he hst (getElem?_of_drop hps) (by rw [hlen, List.length_cons]; omega))
    rw [ha.peLeft_eq] at hbyte
    have hnext := h.of_sends hbyte h.alone h.notDone
    have hps' : en.params.drop (s.is.p + 1) = b' :: ps := by rw [← List.tail_drop, hps]; rfl
    have hrest := ih (s := (s.submitted (paramReq b)).setIs { s.is with p := s.is.p + 1 }) hnext
      (justAccepted_submitted rfl).setIs he hst hps' hw
    have hall := hbyte.trans hrest
    rw [List.map_cons, ha.streamed_cons hw, List.length_cons, Nat.add_mul, Nat.one_mul, Nat.add_comm]
    exact hall

/-- The dispatch cycle of an entry, or of the table's end (R173). -/
theorem InBringup.sends_dispatch (h : InBringup s) (hst : s.is.state = isNEXT) :
    Sends 1 s [] ((s.peWaited 1).setIs (isNextRule s.cfg s.is)) := by
  have hv : s.isReqValid = false := isReqValid_eq_false_iff.2 (by simp [hst])
  rw [← isRule_next hst]
  exact h.sends_quiet (by simp [hv])

/-- A command entry, from its dispatch to the acceptance of its last byte (R177). -/
theorem InBringup.sends_command (h : InBringup s) (hst : s.is.state = isNEXT) (he : s.cfg.initTable[s.is.e]? = some en)
    (hc : en.cmd ≠ s.cfg.cmdNop) :
    Sends (entrySpan s en.params) s
      (entryRequests en.cmd en.params)
      ((s.entrySent en.cmd en.params).setIs
        { s.is with state := isNEXT, e := s.is.e + 1, p := if en.params.isEmpty then s.is.p else 0 }) := by
  have hw := h.inv.1
  have hdispatch := h.sends_dispatch hst
  rw [isNextRule_command he hc] at hdispatch
  have hcmd := h.of_sends hdispatch h.alone (by simp)
  rw [entrySpan, State.entrySent, entryRequests_eq]
  cases hps : en.params with
  | nil =>
    have hbyte := hcmd.sends_byte (.cmd he rfl hps)
    rw [List.map_nil, (justAccepted_submitted rfl).streamed_nil, List.length_nil, Nat.zero_mul]
    exact hdispatch.trans hbyte
  | cons b ps =>
    have hbyte := hcmd.sends_byte (.cmdOfParams he rfl (by simp [hps]))
    have hparam := hcmd.of_sends hbyte h.alone (by simp)
    have hrest := hparam.sends_params (justAccepted_submitted rfl).setIs he rfl hps
    exact hdispatch.trans (hbyte.trans hrest)

/-- A sentinel, from its dispatch to the end of its wait (R178). -/
theorem InBringup.sends_sentinel (h : InBringup s) (hst : s.is.state = isNEXT) (he : s.cfg.initTable[s.is.e]? = some en)
    (hc : en.cmd = s.cfg.cmdNop) :
    Sends (s.cfg.tRelease + 1) s []
      ((s.peWaited (s.cfg.tRelease + 1)).setIs { s.is with state := isNEXT, cnt := 0, e := s.is.e + 1 }) := by
  have hdispatch := h.sends_dispatch hst
  rw [isNextRule_sentinel he hc] at hdispatch
  have hwait := h.of_sends hdispatch h.alone (by simp)
  obtain ⟨n, hn⟩ : ∃ n, s.cfg.tRelease = n + 1 := ⟨_, (Nat.sub_add_cancel (Cfg.wf_tRelease h.inv.1)).symm⟩
  have hcount := hwait.sends_count .wait rfl (n := n) (by show 0 + (n + 1) = s.cfg.tRelease; omega)
  have hall := hdispatch.trans hcount
  rwa [State.peWaited_setIs, State.peWaited_peWaited, ← hn, Nat.add_comm 1] at hall

/-- The requests of one entry of a table (R177, R178). -/
def entryStream (c : Cfg) (en : Entry) : List Req := if en.cmd = c.cmdNop then [] else entryRequests en.cmd en.params

/-- The row of one entry of a table (R104). -/
def entryRow (c : Cfg) (en : Entry) : Instr := if en.cmd = c.cmdNop then .initNop else .initCmd en.cmd en.params

/-- A bound on the cycles of one entry, from its dispatch to the next IS_NEXT cycle (R185). -/
def entryBound (c : Cfg) (en : Entry) : Nat :=
  (if en.cmd = c.cmdNop then c.tRelease + 1 else 0) + (entryStream c en).length * (byteCycles c + 1) + 1

/-- An entry of the table: the run and the row end in one state, with the IS in NEXT at the following entry; and a PE with at most a byte
frame left at its beginning has at most one left at its end, within the entry's bound of cycles. -/
theorem InBringup.sends_entry (h : InBringup s) (hst : s.is.state = isNEXT) (he : s.cfg.initTable[s.is.e]? = some en) :
    ∃ n p, 0 < n ∧ Sends n s (entryStream s.cfg en) ((s.peRan n p).setIs { s.is with e := s.is.e + 1 })
      ∧ exec (entryRow s.cfg en) s = .next ((s.peRan n p).setIs { s.is with e := s.is.e + 1 })
      ∧ (peLeft s.cfg s.pe ≤ byteCycles s.cfg → peLeft s.cfg p ≤ byteCycles s.cfg ∧ n ≤ entryBound s.cfg en) := by
  obtain ⟨hw, -, hok, his, -⟩ := h.inv
  obtain ⟨hcnt, -, hp⟩ := (isOk_next_iff hst).1 his
  have hlt := lt_of_entry he
  have hleft := peLeft_peTrace (ms := s.misoAt) (Cfg.wf_tSetup hw) (Cfg.wf_tActive hw) hok
  by_cases hc : en.cmd = s.cfg.cmdNop
  · have hq : { s.is with state := isNEXT, cnt := 0, e := s.is.e + 1 } = { s.is with e := s.is.e + 1 } := by rw [← hst, ← hcnt]
    have hrun := h.sends_sentinel hst he hc
    have hrow := exec_initNop_eq hlt (h.noRst _)
    rw [hq] at hrun hrow
    rw [entryRow, entryBound, entryStream, if_pos hc, if_pos hc, if_pos hc]
    refine ⟨_, _, Nat.succ_pos _, hrun, hrow, fun hB => ?_⟩
    rw [hleft]
    omega
  · have hq : { s.is with state := isNEXT, e := s.is.e + 1, p := if en.params.isEmpty then s.is.p else 0 }
        = { s.is with e := s.is.e + 1 } := by rw [hp, ite_self, ← hst, ← hp]
    have hrun := h.sends_command hst he hc
    have hrow := exec_initCmd_eq (cmd := en.cmd) (ps := en.params) hw (fun _ => hok) hlt (h.noRst _)
    rw [hq, State.entrySent_eq_peRan] at hrun hrow
    rw [entryRow, entryBound, entryStream, if_neg hc, if_neg hc, if_neg hc]
    refine ⟨_, _, ?_, hrun, hrow, fun hB => ⟨peLeft_lastRequest.le, ?_⟩⟩
    · rw [entrySpan]
      omega
    · rw [entrySpan, State.peWaited_pe, hleft, entryRequests_eq, List.length_cons, List.length_map, Nat.add_mul, Nat.one_mul]
      omega

/-- The rest of the table from an IS_NEXT cycle on, and the cycle that ends it (R173, R179, R185). -/
theorem InBringup.sends_table {es : List Entry} (h : InBringup s) (hst : s.is.state = isNEXT)
    (hes : s.cfg.initTable.drop s.is.e = es) (hB : peLeft s.cfg s.pe ≤ byteCycles s.cfg) :
    ∃ n p, Sends n s (es.flatMap (entryStream s.cfg))
        ((s.peRan n p).setIs { s.is with state := isDONE, e := s.cfg.initTable.length })
      ∧ n ≤ (es.map (entryBound s.cfg)).sum + 1 := by
  induction es generalizing s with
  | nil =>
    obtain ⟨-, -, -, his, -⟩ := h.inv
    obtain ⟨-, hle, -⟩ := (isOk_next_iff hst).1 his
    have hend : s.is.e = s.cfg.initTable.length := Nat.le_antisymm hle (List.drop_eq_nil_iff.1 hes)
    have hlast := h.sends_dispatch hst
    rw [isNextRule_end hend] at hlast
    exact ⟨1, _, hend ▸ hlast, by simp⟩
  | cons en es ih =>
    obtain ⟨n, p, -, hentry, -, hbound⟩ := h.sends_entry hst (getElem?_of_drop hes)
    obtain ⟨hB', hn⟩ := hbound hB
    have hes' : s.cfg.initTable.drop (s.is.e + 1) = es := by rw [← List.tail_drop, hes, List.tail_cons]
    obtain ⟨m, p', hrest, hm⟩ := ih (h.of_sends hentry h.alone h.notDone) hst hes' hB'
    have hall := hentry.trans hrest
    rw [State.peRan_setIs, State.peRan_peRan] at hall
    refine ⟨n + m, p', hall, ?_⟩
    rw [List.map_cons, List.sum_cons, Nat.add_assoc]
    exact Nat.add_le_add hn hm

end

/-- The entries' bounds add up to the sentinels' waits, the bytes' frames and a cycle for each entry (R185). -/
theorem sum_entryBound (c : Cfg) (es : List Entry) :
    (es.map (entryBound c)).sum
      = (es.filter fun e => e.cmd == c.cmdNop).length * (c.tRelease + 1)
        + (es.flatMap (entryStream c)).length * (byteCycles c + 1) + es.length := by
  induction es with
  | nil => simp
  | cons en es ih =>
    rw [List.map_cons, List.sum_cons, ih, entryBound, List.flatMap_cons, List.length_append, List.filter_cons, Nat.add_mul,
      List.length_cons]
    by_cases hc : en.cmd = c.cmdNop
    · simp only [hc, beq_self_eq_true, if_true, List.length_cons, Nat.add_mul, Nat.one_mul]
      omega
    · simp only [hc, beq_iff_eq, if_false]
      omega

section
variable {c : Cfg} {inputs : List Input} {tick : Nat} (hw : c.wf = true)
include hw

theorem inBringup_init (hr : ∀ i ∈ inputs, i.rst = false) : InBringup (State.init c inputs [] tick) :=
  ⟨inv_init hw _ _ _, rfl, by simp [State.init, IsRegs.reset], hr⟩

/-- The reset pulse and the release wait: the IS comes to IS_NEXT at entry 0 with the PE idle (R171, R172). -/
theorem sends_pulses (hr : ∀ i ∈ inputs, i.rst = false) :
    Sends (c.tReset + c.tRelease) (State.init c inputs [] tick) []
      (((State.init c inputs [] tick).peRan (c.tReset + c.tRelease) PeRegs.reset).setIs { IsRegs.reset with state := isNEXT }) := by
  obtain ⟨a, ha⟩ : ∃ a, c.tReset = a + 1 := ⟨_, (Nat.sub_add_cancel (Cfg.wf_tReset hw)).symm⟩
  obtain ⟨b, hb⟩ : ∃ b, c.tRelease = b + 1 := ⟨_, (Nat.sub_add_cancel (Cfg.wf_tRelease hw)).symm⟩
  have hinit := inBringup_init (tick := tick) hw hr
  have hpulse := hinit.sends_count .reset rfl (n := a) (by show 0 + (a + 1) = c.tReset; omega)
  have hwait := (hinit.of_sends hpulse rfl (by simp)).sends_count .wait rfl (n := b) (by show 0 + (b + 1) = c.tRelease; omega)
  have hall := hpulse.trans hwait
  rw [State.peWaited_setIs, State.peWaited_peWaited, ← ha, ← hb, State.peWaited_idle rfl] at hall
  exact hall

/-- Bring-up of a well-formed build: the whole table is sent, the IS is in DONE, and the SP and the banks are as after reset (R179,
R185). -/
theorem sends_initTable (hr : ∀ i ∈ inputs, i.rst = false) :
    ∃ n p, Sends n (State.init c inputs [] tick) (initStream c)
        (((State.init c inputs [] tick).peRan n p).setIs { IsRegs.reset with state := isDONE, e := c.initTable.length })
      ∧ n ≤ c.tReset + c.tRelease + ((c.initTable.map (entryBound c)).sum + 1) := by
  have hpulses := sends_pulses (tick := tick) hw hr
  have hnext := (inBringup_init hw hr).of_sends hpulses rfl (by simp)
  obtain ⟨n, p, htable, hn⟩ := hnext.sends_table rfl rfl (by exact (peLeft_idle rfl).trans_le (Nat.zero_le _))
  have hall := hpulses.trans htable
  rw [State.peRan_setIs, State.peRan_peRan] at hall
  exact ⟨_, p, hall, Nat.add_le_add_left hn _⟩

end

/-- The IS's registers k cycles after reset: in IS_RESET with is_cnt at k in the first T_RESET cycles, and no longer there in every later
one, whatever the external producer does (R171, R180). -/
theorem runFor_resetPulse {c : Cfg} {inputs : List Input} {ext : List Req} {tick k : Nat} (hw : c.wf = true)
    (hr : NoRst k (State.init c inputs ext tick)) :
    ∃ t, runFor k (State.init c inputs ext tick) = .next t
      ∧ (k < c.tReset → t.is = { IsRegs.reset with cnt := k }) ∧ (c.tReset ≤ k → t.is.state ≠ isRESET) := by
  induction k with
  | zero =>
    have hpos := Cfg.wf_tReset hw
    exact ⟨_, rfl, fun _ => rfl, by omega⟩
  | succ k ih =>
    obtain ⟨t, ht, hbefore, hafter⟩ := ih (noRst_mono (Nat.le_succ k) hr)
    obtain ⟨u, hu⟩ := step_of_inv (inv_of_runFor (inv_init hw inputs ext tick) ht)
    have hcfg : t.cfg = c := (runFor_frame ht).1
    have hrule : u.is = isRule t := step_is hu (rst_of_noRst (runFor_noRst ht hr))
    refine ⟨u, runFor_add_next.2 ⟨t, ht, by rw [runFor_one, hu]⟩, fun hlt => ?_, fun hle => ?_⟩
    · have his := hbefore (by omega)
      rw [hrule, isRule_counting .reset (by rw [his]; rfl), his, hcfg, isCountRule_more (le_max_left _ _) _ hlt]
    · rcases Nat.eq_or_lt_of_le hle with hend | hlt
      · have his := hbefore (by omega)
        rw [hrule, isRule_counting .reset (by rw [his]; rfl), his, hcfg, isCountRule_last _ hend.symm]
        simp
      · exact hrule ▸ isRule_ne_reset (hafter (Nat.le_of_lt_succ hlt))

end Sys2Proof.Safety

namespace Sys2Proof.Proofs

open Sys2Proof.Machine Sys2Proof.Safety

/-- Settles O53: a run and the row of an entry both wait for the PE before each byte, or count the release wait; both end in one closed
form. -/
theorem stepsRunTheTableEntry : Obligations.StepsRunTheTableEntry := by
  intro s en hinv hext hst he hr
  have h : InBringup s := ⟨hinv, hext, by simp [hst], hr⟩
  obtain ⟨n, p, hn, hrun, hrow, -⟩ := h.sends_entry hst he
  exact ⟨n, _, hn, hrun.run, hrow, hrun.stream⟩

/-- Settles O55: the two pulses, the entries one after another, and the cycle that finds the end of the table. -/
theorem bringupReplaysTheTable : Obligations.BringupReplaysTheTable := by
  intro c inputs tick hw hr
  obtain ⟨n, p, hrun, hn⟩ := sends_initTable (tick := tick) hw hr
  refine ⟨n, _, hrun.run, rfl, hrun.stream, hn.trans ?_⟩
  have hstream : initStream c = c.initTable.flatMap (entryStream c) := rfl
  rw [sum_entryBound, hstream, Nat.add_mul, Nat.one_mul]
  omega

/-- Settles O32: from IDLE the dispatch and the command's acceptance take a cycle each, and the PE's registers are those of the last
acceptance. -/
theorem initCmdSubmitsTheEntry : Obligations.InitCmdSubmitsTheEntry := by
  intro s c ps hw hidle he hr
  have hwait : s.peWaited 1 = s.peRan 1 s.pe := State.peWaited_idle hidle
  have hspan : entrySpan s ps = 2 + ps.length * (byteCycles s.cfg + 1) := by
    rw [entrySpan, hwait, State.peRan_pe, peLeft_idle hidle]
    omega
  have hpe : ((s.peWaited 1).submitted (cmdReq c)).pe = peIdleRule (some (cmdReq c)) s.pe := by
    rw [hwait, State.submitted_idle (by exact hidle)]
    rfl
  rw [exec_initCmd_eq hw (absurd hidle) he (hspan ▸ hr), State.entrySent_eq_peRan, hspan, hpe]
  rfl

/-- Settles O33: the dispatch cycle and the wait are one trace of a PE to which nothing is offered. -/
theorem initNopWaits : Obligations.InitNopWaits := by
  intro s he hr
  exact ⟨exec_initNop_eq he hr, fun hidle => peTrace_idle hidle _, fun k => ⟨(peRule_none _).2, peTrace_tx k⟩⟩

/-- Settles O44: the core's own requests have rlen 0, so there is never a byte to receive. -/
theorem responseStreamStaysSilent : Obligations.ResponseStreamStaysSilent :=
  ⟨fun _ _ _ => ⟨rfl, rfl, .inl rfl⟩, fun _ _ h hst =>
    ⟨step_keeps_silent h hst, rspValid_of_silent h, rspValid_of_silent (step_keeps_silent h hst)⟩⟩

/-- Settles O54: the line is low in IS_RESET alone, which the IS holds for the reset pulse and never comes back to. -/
theorem resetLineLowForTheResetPulse : Obligations.ResetLineLowForTheResetPulse := by
  intro c inputs ext tick k hw hr
  obtain ⟨t, ht, hpulse, hlater⟩ := runFor_resetPulse hw hr
  refine ⟨t, ht, ?_⟩
  rw [lcdRstN_eq]
  rcases Nat.lt_or_ge k c.tReset with hk | hk
  · rw [hpulse hk, decide_eq_false (Nat.not_le_of_gt hk)]
    rfl
  · rw [decide_eq_true (hlater hk), decide_eq_true hk]

/-- Settles O11: the IS's lines state by state. -/
theorem isOutputsAreMoore : Obligations.IsOutputsAreMoore := by
  intro s
  refine ⟨isRstN_iff, isReqValid_iff, fun en hst he => ?_, fun en b hst he hb => ?_, isReq_data_of_not_valid, ?_, rfl, done_iff⟩
  · rw [isReq_cmd hst he]
    rfl
  · rw [isReq_param hst he hb]
    rfl
  · simp [State.isReq]

/-- Settles O18: the two counts, each inside the longer of the two times, and the lines of their states. -/
theorem isResetAndIsWaitCount : Obligations.IsResetAndIsWaitCount := by
  intro s
  have hreset : exec .isReset s = .next (s.setIs (isCountRule s.cfg s.cfg.tReset isWAIT s.is)) := rfl
  have hwait : exec .isWait s = .next (s.setIs (isCountRule s.cfg s.cfg.tRelease isNEXT s.is)) := rfl
  rw [hreset, hwait]
  refine ⟨⟨⟨_, rfl⟩, ⟨_, rfl⟩⟩, fun h => ?_, fun h => ?_, fun h => ?_, fun h => ?_, fun h => ?_, fun h => ?_⟩
  · rw [isCountRule_last _ h]
  · rw [isCountRule_more (le_max_left _ _) _ h]
  · rw [isCountRule_last _ h]
  · rw [isCountRule_more (le_max_right _ _) _ h]
  · simp [State.isRstN, State.isReqValid, h]
  · simp [State.isRstN, State.isReqValid, h]

/-- Settles O19: the three cases of the dispatch. -/
theorem isNextDispatchesTheEntry : Obligations.IsNextDispatchesTheEntry := by
  intro s
  have hrow : exec .isNext s = .next (s.setIs (isNextRule s.cfg s.is)) := rfl
  rw [hrow]
  refine ⟨⟨_, rfl⟩, fun h => ?_, fun en he hc => ?_, fun en he hc => ?_⟩
  · rw [isNextRule_end h]
  · rw [isNextRule_sentinel he hc]
  · rw [isNextRule_command he hc]

/-- Settles O20: without fire both rules hold; with fire each has its two cases; the lines are the entry's byte. -/
theorem isCmdAndIsParamHoldUntilFire : Obligations.IsCmdAndIsParamHoldUntilFire := by
  intro s
  have hcmd : exec .isCmd s = .next (s.setIs (isCmdRule s.cfg s.isFire s.is)) := rfl
  have hparam : exec .isParam s = .next (s.setIs (isParamRule s.cfg s.isFire s.is)) := rfl
  rw [hcmd, hparam]
  refine ⟨⟨⟨_, rfl⟩, ⟨_, rfl⟩⟩, fun hf => ?_, fun en he hf => ⟨fun hp => ?_, fun hp => ?_, fun hp => ?_, fun hp => ?_⟩,
    fun en he => ⟨fun hst => ⟨isReqValid_iff.2 (.inl hst), isReq_cmd hst he⟩,
      fun b hst hb => ⟨isReqValid_iff.2 (.inr hst), isReq_param hst he hb⟩⟩⟩
  · rw [hf]
    exact ⟨rfl, rfl⟩
  · rw [hf, isCmdRule_alone he hp]
  · rw [hf, isCmdRule_params he hp]
  · rw [hf, isParamRule_last he hp]
  · rw [hf, isParamRule_more he hp]

/-- Settles O21: in IS_DONE the IS's rule is to keep its registers. -/
theorem isDoneStaysUntilRst : Obligations.IsDoneStaysUntilRst := by
  refine ⟨fun _ => rfl, fun _ => done_iff, fun _ _ _ _ => rfl, fun s hst => ⟨done_iff.2 hst, ?_, ?_⟩, fun s t hst hr hd => ?_⟩
  · simp [State.isReqValid, hst]
  · simp [State.isRstN, hst]
  · have his : t.is = s.is := (step_is hst hr).trans (isRule_of_done hd)
    exact ⟨done_iff.2 (his ▸ done_iff.1 hd), his⟩

end Sys2Proof.Proofs
end

section
/-! SUPPORT. The family of 42_pipeline_render.md: the Simulation Pipeline's lines, the cell that a pixel shows, what each SP row asks of the
registers and of the banks, and a render pass as a run of the core, byte by byte, pixel by pixel, row by row. -/

namespace Sys2Proof.Machine

open Sys2Proof.Safety

/-! The Simulation Pipeline's lines (R201). -/

section
variable {s : State}

theorem spOffersPixel_iff : s.spOffersPixel = true ↔ s.sp.phase = spRENDER ∧ (s.sp.sub = sub1 ∨ s.sp.sub = sub2) := by
  simp [State.spOffersPixel]

theorem spReqValid_iff :
    s.spReqValid = true ↔ s.sp.phase = spBEGIN ∨ (s.sp.phase = spRENDER ∧ (s.sp.sub = sub1 ∨ s.sp.sub = sub2)) := by
  rw [State.spReqValid, Bool.or_eq_true, spOffersPixel_iff, beq_iff_eq]

/-- BRINGUP offers nothing (R202). -/
theorem spReqValid_bringup (hp : s.sp.phase = spBRINGUP) : s.spReqValid = false := by
  simp [State.spReqValid, State.spOffersPixel, hp]

/-- RENDER offers nothing while it reads a pixel's cell (R204). -/
theorem spReqValid_renderAddr (hp : s.sp.phase = spRENDER) (hs : s.sp.sub = sub0) : s.spReqValid = false := by
  simp [State.spReqValid, State.spOffersPixel, hp, hs]

/-- BEGIN's lines are the begin-write command (R203). -/
theorem spReq_begin (hp : s.sp.phase = spBEGIN) : s.spReq = cmdReq s.cfg.cmdRamwr := by
  simp [State.spReq, cmdReq, hp]

/-- RENDER's lines are the pixel's byte as a parameter (R205, R206). -/
theorem spReq_pixel (hp : s.sp.phase = spRENDER) (hs : s.sp.sub = sub1 ∨ s.sp.sub = sub2) :
    s.spReq = paramReq (pixelByte s.mem.cur.rdata) := by
  have hoff : s.spOffersPixel = true := spOffersPixel_iff.2 ⟨hp, hs⟩
  simp [State.spReq, paramReq, hoff, hp]

/-- Without a request sp_req_data is a draw (R201). -/
theorem spReq_data_of_not_valid (h : s.spReqValid = false) : s.spReq.data = Config.drawSpReqData s.tick := by
  obtain ⟨hbegin, hpixel⟩ := Bool.or_eq_false_iff.1 h
  rw [beq_eq_false_iff_ne] at hbegin
  simp [State.spReq, hbegin, hpixel]

end

/-- A request that the SP offers with the registers p, the row that offers it, and where the SP goes on when it fires (R203, R205, R206). -/
inductive SpOffers (c : Cfg) (rdata : Bool) (p : SpRegs) : Instr → Req → SpRegs → Prop where
  | beginWrite (hp : p.phase = spBEGIN) (hs : p.sub = sub0) :
      SpOffers c rdata p .spBeginWrite (cmdReq c.cmdRamwr) { p with col := 0, pag := 0, phase := spRENDER, sub := sub0 }
  | byte0 (hp : p.phase = spRENDER) (hs : p.sub = sub1) :
      SpOffers c rdata p .spRenderByte0 (paramReq (pixelByte rdata)) { p with sub := sub2 }
  | byte1 (hp : p.phase = spRENDER) (hs : p.sub = sub2) :
      SpOffers c rdata p .spRenderByte1 (paramReq (pixelByte rdata)) (nextPixelRule c p)

section
variable {s : State} {k : Instr} {r : Req} {q : SpRegs}

theorem SpOffers.valid (h : SpOffers s.cfg s.mem.cur.rdata s.sp k r q) : s.spReqValid = true := by
  cases h with
  | beginWrite hp _ => exact spReqValid_iff.2 (.inl hp)
  | byte0 hp hs => exact spReqValid_iff.2 (.inr ⟨hp, .inl hs⟩)
  | byte1 hp hs => exact spReqValid_iff.2 (.inr ⟨hp, .inr hs⟩)

theorem SpOffers.spReq_eq (h : SpOffers s.cfg s.mem.cur.rdata s.sp k r q) : s.spReq = r := by
  cases h with
  | beginWrite hp _ => exact spReq_begin hp
  | byte0 hp hs => exact spReq_pixel hp (.inl hs)
  | byte1 hp hs => exact spReq_pixel hp (.inr hs)

theorem SpOffers.decode_eq (h : SpOffers s.cfg s.mem.cur.rdata s.sp k r q) : decodeSpState (s.sp.phase ++ s.sp.sub) = .ok k := by
  cases h with
  | beginWrite hp hs | byte0 hp hs | byte1 hp hs => rw [spCode_of_fields hp hs]; rfl

/-- A row that offers a request holds it until it fires. -/
theorem SpOffers.exec_eq (h : SpOffers s.cfg s.mem.cur.rdata s.sp k r q) :
    exec k s = .next (s.setSp (if s.spFire then q else s.sp)) := by
  cases h <;> rfl

end

/-! The cell of a pixel (R204, R207). -/

/-- The bit of a grid that pixel (col, pag) shows. -/
def pixelCell (c : Cfg) (cells : List Bool) (col pag : Nat) : Bool :=
  cells.getD (cellAddr c (col / c.scale) (pag / c.scale)) false

/-- The banks after a read of the current bank that gives v (R72). -/
def Memory.curRead (m : Memory) (v : Bool) : Memory := { m with cur := { m.cur with rdata := v } }

section
variable {c : Cfg} {s : State} {col pag : Nat}

/-- The render address is the address of the cell of the pixel's block (R207). -/
theorem pixelAddr_eq (hcol : col < c.dispCols) (hpag : pag < c.dispPages) :
    pixelAddr c col pag = cellAddr c (col / c.scale) (pag / c.scale) := by
  rw [pixelAddr, (wrap_block hcol).1, (wrap_block hpag).1]

/-- The cell of a pixel of the display is in the bank (R76). -/
theorem cell_pixel {b : Bank} (hb : b.cells.length = c.cellCount) (hcol : col < c.dispCols) (hpag : pag < c.dispPages) :
    b.cell (cellAddr c (col / c.scale) (pag / c.scale)) = some (pixelCell c b.cells col pag) := by
  have hlt : cellAddr c (col / c.scale) (pag / c.scale) < b.cells.length := hb ▸ pixelAddr_eq hcol hpag ▸ pixelAddr_lt hcol hpag
  simp [Bank.cell, pixelCell, hlt]

/-- SP_RENDER_ADDR reads the cell of the pixel's block (R204). -/
theorem exec_spRenderAddr_eq (hm : Memory.wf s.cfg.cellCount s.mem = true) (hcol : s.sp.col < s.cfg.dispCols)
    (hpag : s.sp.pag < s.cfg.dispPages) :
    exec .spRenderAddr s
      = .next ((s.setSp { s.sp with sub := sub1 }).setMem
          (s.mem.curRead (pixelCell s.cfg s.mem.cur.cells s.sp.col s.sp.pag))) := by
  obtain ⟨hcur, -⟩ := Memory.wf_iff.1 hm
  have hread : s.mem.cur.clock (.memRead (pixelAddr s.cfg s.sp.col s.sp.pag))
      = .ok { s.mem.cur with rdata := pixelCell s.cfg s.mem.cur.cells s.sp.col s.sp.pag } := by
    simp [Bank.clock, BankPorts.memRead, pixelAddr_eq hcol hpag, cell_pixel hcur hcol hpag]
  exact spCommit_of_ok hread (Bank.clock_quiet _)

end

/-! What the SP's rows leave unchanged. -/

@[simp] theorem BankPorts.quiet_read : BankPorts.quiet.read = none := rfl
@[simp] theorem BankPorts.quiet_write : BankPorts.quiet.write = none := rfl
@[simp] theorem BankPorts.memRead_read (a : Nat) : (BankPorts.memRead a).read = some a := rfl
@[simp] theorem BankPorts.memRead_write (a : Nat) : (BankPorts.memRead a).write = none := rfl
@[simp] theorem BankPorts.memWrite_read (a : Nat) (v : Bool) : (BankPorts.memWrite a v).read = none := rfl
@[simp] theorem BankPorts.memWrite_write (a : Nat) (v : Bool) : (BankPorts.memWrite a v).write = some (a, v) := rfl

/-- A bank that is not read keeps its read register (R72). -/
theorem Bank.clock_rdata {b b' : Bank} {p : BankPorts} (h : b.clock p = .ok b') (hr : p.read = none) : b'.rdata = b.rdata := by
  obtain ⟨-, -, rfl⟩ | ⟨a, v, hread, -⟩ | ⟨a, v, w, -, -, -, rfl⟩ := Bank.clock_ok h
  · rfl
  · simp [hr] at hread
  · rfl

/-- A bank keeps every cell that is not written (R73). -/
theorem Bank.clock_cell {b b' : Bank} {p : BankPorts} {a : Nat} (h : b.clock p = .ok b') (hw : ∀ v, p.write ≠ some (a, v)) :
    b'.cell a = b.cell a := by
  obtain ⟨-, -, rfl⟩ | ⟨_, _, -, -, -, rfl⟩ | ⟨x, v, w, -, hwrite, -, rfl⟩ := Bank.clock_ok h
  · rfl
  · rfl
  · have hne : x ≠ a := fun hx => hw v (hx ▸ hwrite)
    simp [Bank.cell, hne]

/-- The registers that an SP row leaves, beyond sp_phase and sp_sub. -/
structure RowKeeps (i : Instr) (p q : SpRegs) : Prop where
  pixel : i ∉ [Instr.spBeginWrite, .spRenderByte1] → q.col = p.col ∧ q.pag = p.pag
  cell : i ∉ [Instr.spRenderByte1, .spEvolveWrite, .spTransitionWrite] → q.cx = p.cx ∧ q.cy = p.cy
  sum : i ∉ [Instr.spRenderByte1, .spEvolveAcc, .spEvolveWrite] → q.v = p.v ∧ q.n = p.n
  alive : i ≠ .spEvolveAcc → q.alive = p.alive

/-- The accesses that an SP row can ask of the two banks: the reading rows read, and the writing rows write at the scan's cell. -/
structure RowPorts (i : Instr) (a : Nat) (cur nxt : BankPorts) : Prop where
  curRead : i ∉ [Instr.spRenderAddr, .spEvolveAddr] → cur.read = none
  nxtRead : i ≠ .spTransitionLoad → nxt.read = none
  curWrite : ∀ x v, cur.write = some (x, v) → i = .spTransitionWrite ∧ x = a
  nxtWrite : ∀ x v, nxt.write = some (x, v) → i = .spEvolveWrite ∧ x = a

section
variable {i : Instr} {p q : SpRegs}

/-- A row that moves sp_phase and sp_sub alone. -/
theorem RowKeeps.codes (i : Instr) (p : SpRegs) (ph : BitVec 3) (sub : BitVec 2) : RowKeeps i p { p with phase := ph, sub := sub } :=
  ⟨fun _ => ⟨rfl, rfl⟩, fun _ => ⟨rfl, rfl⟩, fun _ => ⟨rfl, rfl⟩, fun _ => rfl⟩

/-- A row that waits leaves no more than it does when it goes on. -/
theorem RowKeeps.of_ite (b : Bool) (h : RowKeeps i p q) : RowKeeps i p (if b then q else p) := by
  cases b with
  | false => exact .codes i p p.phase p.sub
  | true => exact h

/-- The scan over pixels keeps sp_alive (R206). -/
theorem nextPixelRule_alive (c : Cfg) (p : SpRegs) : (nextPixelRule c p).alive = p.alive := by
  unfold nextPixelRule
  split_ifs <;> rfl

/-- The scan over cells moves the cell counters, sp_phase and sp_sub alone (R238, R242). -/
theorem nextCellRule_frame (c : Cfg) (after : BitVec 3) (p : SpRegs) :
    ∃ x y ph sub, nextCellRule c after p = { p with cx := x, cy := y, phase := ph, sub := sub } := by
  unfold nextCellRule
  split_ifs
  · exact ⟨_, p.cy, p.phase, _, rfl⟩
  · exact ⟨_, _, p.phase, _, rfl⟩
  · exact ⟨_, _, _, _, rfl⟩

/-- The scan over pixels does not read sp_sub. -/
theorem nextPixelRule_sub (c : Cfg) (p : SpRegs) (sub : BitVec 2) : nextPixelRule c { p with sub := sub } = nextPixelRule c p := by
  unfold nextPixelRule
  split_ifs <;> rfl

/-- A row that uses no bank. -/
theorem RowPorts.quiet (i : Instr) (a : Nat) : RowPorts i a .quiet .quiet := ⟨by simp, by simp, by simp, by simp⟩

end

/-- Every SP row is a commit that keeps the registers the row does not name and asks of the banks what the row does. -/
theorem exec_spRow_frame {i : Instr} (s : State)
    (hi : i ∈ [Instr.spBringup, .spBeginWrite, .spRenderAddr, .spRenderByte0, .spRenderByte1, .spEvolveAddr, .spEvolveAcc,
      .spEvolveWrite, .spTransitionLoad, .spTransitionWrite]) :
    ∃ q cur nxt, exec i s = spCommit s q cur nxt ∧ RowKeeps i s.sp q ∧ RowPorts i (cellAddr s.cfg s.sp.cx s.sp.cy) cur nxt := by
  simp only [List.mem_cons, List.not_mem_nil, or_false] at hi
  rcases hi with rfl | rfl | rfl | rfl | rfl | rfl | rfl | rfl | rfl | rfl
  · exact ⟨_, _, _, rfl, .of_ite _ (.codes ..), .quiet ..⟩
  · exact ⟨_, _, _, rfl, .of_ite _ ⟨by simp, by simp, by simp, by simp⟩, .quiet ..⟩
  · exact ⟨_, _, _, rfl, .codes .., ⟨by simp, by simp, by simp, by simp⟩⟩
  · exact ⟨_, _, _, rfl, .of_ite _ (.codes ..), .quiet ..⟩
  · exact ⟨_, _, _, rfl, .of_ite _ ⟨by simp, by simp, by simp, fun _ => nextPixelRule_alive _ _⟩, .quiet ..⟩
  · exact ⟨_, _, _, rfl, .codes .., ⟨by simp, by simp, by simp, by simp⟩⟩
  · exact ⟨_, _, _, rfl, ⟨by simp [accumulateRule], by simp [accumulateRule], by simp, by simp⟩, .quiet ..⟩
  · obtain ⟨x, y, ph, sub, heq⟩ := nextCellRule_frame s.cfg spTRANSITION { s.sp with n := 0#4, v := 0#4 }
    exact ⟨_, _, _, rfl, heq ▸ ⟨by simp, by simp, by simp, by simp⟩, ⟨by simp, by simp, by simp, by simp +contextual⟩⟩
  · exact ⟨_, _, _, rfl, .codes .., ⟨by simp, by simp, by simp, by simp⟩⟩
  · obtain ⟨x, y, ph, sub, heq⟩ := nextCellRule_frame s.cfg spBEGIN s.sp
    exact ⟨_, _, _, rfl, heq ▸ ⟨by simp, by simp, by simp, by simp⟩, ⟨by simp, by simp, by simp +contextual, by simp⟩⟩

/-! The states of a render pass in closed form. -/

section
variable {s : State} {q : SpRegs} {m : Memory} {a b n : Nat} {r : Req}

@[simp] theorem State.submitted_setSp : (s.setSp q).submitted r = (s.submitted r).setSp q := rfl
@[simp] theorem State.submitted_setMem : (s.setMem m).submitted r = (s.submitted r).setMem m := rfl

/-- A request that comes to the port of a busy PE later is taken in at the same time (R143). -/
theorem State.submitted_peWaited (hw : s.cfg.wf = true) (hok : PeOk s.cfg s.pe) (hn : n ≤ peLeft s.cfg s.pe) :
    (s.peWaited n).submitted r = s.submitted r := by
  rw [State.submitted, State.peWaited_cfg, State.peWaited_pe, peLeft_peTrace (Cfg.wf_tSetup hw) (Cfg.wf_tActive hw) hok,
    State.peWaited_peWaited, Nat.add_sub_cancel' hn, State.submitted]

theorem JustAccepted.setSp (h : JustAccepted r s) : JustAccepted r (s.setSp q) := ⟨h.pe, h.rlen⟩

/-- s after the cycle that reads the cell of a pixel that shows v (R204). -/
def State.pixelRead (s : State) (v : Bool) : State := ((s.peWaited 1).setSp { s.sp with sub := sub1 }).setMem (s.mem.curRead v)

/-- s after n cycles of a render pass that end with the acceptance of a byte of a pixel that shows v; the SP goes on with the registers q
(R205, R206). -/
def State.pixelShown (s : State) (n : Nat) (q : SpRegs) (v : Bool) : State :=
  ((s.peRan n (peIdleRule (some (paramReq (pixelByte v))) s.pe)).setSp q).setMem (s.mem.curRead v)

theorem State.pixelShown_pixelShown {q' : SpRegs} {v v' : Bool} :
    (s.pixelShown a q v).pixelShown b q' v' = s.pixelShown (a + b) q' v' := by
  rw [State.pixelShown, State.pixelShown, State.pixelShown, ← State.peRan_peRan (p := s.pe)]
  rfl

/-- The byte of a pixel is taken in B + 1 cycles after the request before it (R144). -/
theorem JustAccepted.pixelShown_eq (h : JustAccepted r s) (hw : s.cfg.wf = true) {v : Bool} :
    ((s.submitted (paramReq (pixelByte v))).setSp q).setMem (s.mem.curRead v) = s.pixelShown (byteCycles s.cfg + 1) q v := by
  rw [h.submitted_eq hw, State.pixelShown]

theorem justAccepted_pixelShown {v : Bool} : JustAccepted (paramReq (pixelByte v)) (s.pixelShown n q v) := ⟨rfl, rfl⟩

end

/-- The SP's registers at the start of EVOLVE after a frame (R206). -/
def SpRegs.evolveStart (p : SpRegs) : SpRegs :=
  { p with col := 0, pag := 0, cx := 0, cy := 0, v := 0#4, n := 0#4, phase := spEVOLVE, sub := sub0 }

/-- The SP's registers after the last pixel of a page: the next page, or EVOLVE (R206). -/
def SpRegs.pageEnd (c : Cfg) (p : SpRegs) : SpRegs :=
  if p.pag + 1 = c.dispPages then p.evolveStart else { p with col := 0, pag := p.pag + 1, sub := sub0 }

theorem nextPixelRule_pageEnd {c : Cfg} {p : SpRegs} (hcol : p.col + 1 = c.dispCols) (hpag : p.pag < c.dispPages) :
    nextPixelRule c p = p.pageEnd c := by
  unfold SpRegs.pageEnd
  split_ifs with hlast
  · exact nextPixelRule_last hcol hlast
  · exact nextPixelRule_page hcol (by omega)

end Sys2Proof.Machine

namespace Sys2Proof.Safety

open Sys2Proof.Machine

/-! A render pass as a run of the core. -/

section
variable {s : State} {r : Req}

/-- A busy PE accepts nothing. -/
theorem accepted_of_busy (h : s.reqReady = false) : accepted s = [] := by simp [accepted, h]

/-- Nothing is accepted where nothing is on the port. -/
theorem accepted_of_no_port (h : s.port = none) : accepted s = [] := by simp [accepted, h]

/-- A ready PE accepts what is on the port (R15). -/
theorem accepted_of_port (hr : s.rst = false) (hready : s.reqReady = true) (hport : s.port = some r) : accepted s = [r] := by
  simp [accepted, hr, hready, hport]

/-- A cycle that accepts nothing is, for the PE, a cycle with nothing offered (R131, R143). -/
theorem peRule_of_accepted_nil {c : Cfg} {m : Bool} (hr : s.rst = false) (h : accepted s = []) :
    peRule c s.port m s.pe = peRule c none m s.pe := by
  cases hready : s.reqReady with
  | false => exact peRule_port (reqReady_eq_false_iff.1 hready) none
  | true =>
    have hport : s.port = none := by simpa [accepted, hr, hready] using h
    rw [hport]

end

/-- From BEGIN on done is 1 (R36, R202). -/
theorem done_of_inv {s : State} (h : Inv s) (hp : s.sp.phase ≠ spBRINGUP) : s.done = true := by
  obtain ⟨-, -, -, -, -, hdone⟩ := h
  exact hdone hp

/-- A state of the core alone after bring-up, with rst low in the next n cycles. -/
structure AfterBringup (n : Nat) (s : State) : Prop where
  inv : Inv s
  alone : s.extReqs = []
  done : s.done = true
  rstLow : NoRst n s

section
variable {s t : State} {n m : Nat} {rs : List Req} {k : Instr} {r : Req} {q : SpRegs}

theorem AfterBringup.mono (h : AfterBringup m s) (hn : n ≤ m) : AfterBringup n s :=
  ⟨h.inv, h.alone, h.done, noRst_mono hn h.rstLow⟩

/-- The rest of a run after its first part. -/
theorem AfterBringup.of_sends (h : AfterBringup (n + m) s) (hrun : Sends n s rs t) (he : t.extReqs = []) (hd : t.done = true) :
    AfterBringup m t :=
  ⟨inv_of_runFor h.inv hrun.run, he, hd, runFor_noRst hrun.run h.rstLow⟩

/-- After bring-up the port is the SP's (R36). -/
theorem AfterBringup.port_eq (h : AfterBringup n s) : s.port = if s.spReqValid then some s.spReq else none := by
  simp [State.port, State.reqValid, State.reqLines, selected_of_done h.alone h.done]

theorem AfterBringup.spFire_eq (h : AfterBringup n s) : s.spFire = (s.spReqValid && s.reqReady) := by
  simp [State.spFire, selected_of_done h.alone h.done]

/-- What a cycle after bring-up does: the PE and the SP move, the IS stands still (R176). -/
theorem AfterBringup.step_eq {m : Memory} (h : AfterBringup (n + 1) s) (hk : decodeSpState (s.sp.phase ++ s.sp.sub) = .ok k)
    (hrow : exec k s = .next ((s.setSp q).setMem m)) :
    step s = .next (((s.peRan 1 (peRule s.cfg s.port s.miso s.pe)).setSp q).setMem m) := by
  obtain ⟨⟨hw, -, -, ⟨hcode, -⟩, -⟩, he, hd, hr⟩ := h
  obtain ⟨j, hj⟩ := decodeIsState_of_listed hcode
  have hext : s.extAfter = s.extReqs := by simp [extAfter_eq, he]
  rw [step_of_fetch hw (rst_of_noRst hr) hj hk, hrow, joinCycle_next, hext, isRule_of_done hd]
  simp [State.peRan, State.advance, State.setPe, State.setSp, State.setMem]

/-- A cycle in which nothing is accepted: the PE goes on with nothing offered to it. -/
theorem AfterBringup.sends_quiet {m : Memory} (h : AfterBringup (n + 1) s) (hk : decodeSpState (s.sp.phase ++ s.sp.sub) = .ok k)
    (hrow : exec k s = .next ((s.setSp q).setMem m)) (hacc : accepted s = []) :
    Sends 1 s [] (((s.peWaited 1).setSp q).setMem m) := by
  have hcycle := h.step_eq hk hrow
  rw [peRule_of_accepted_nil (rst_of_noRst h.rstLow) hacc] at hcycle
  rw [← hacc]
  exact Sends.of_step hcycle

/-- A request on the port of a busy PE is held as long as the PE is busy (R143, R203, R205, R206). -/
theorem AfterBringup.sends_hold (h : AfterBringup n s) (ho : SpOffers s.cfg s.mem.cur.rdata s.sp k r q)
    (hn : n ≤ peLeft s.cfg s.pe) : Sends n s [] (s.peWaited n) := by
  obtain ⟨hw, -, hok, -⟩ := h.inv
  induction n with
  | zero => exact Sends.refl s
  | succ n ih =>
    have hbefore := ih (h.mono (Nat.le_succ n)) (Nat.le_of_succ_le hn)
    have hmid : AfterBringup 1 (s.peWaited n) := h.of_sends hbefore h.alone h.done
    have hbusy : (s.peWaited n).reqReady = false := by
      rw [reqReady_eq_false_iff, State.peWaited_pe, Ne, peTrace_idle_iff (Cfg.wf_tSetup hw) (Cfg.wf_tActive hw) hok]
      omega
    have ho' : SpOffers (s.peWaited n).cfg (s.peWaited n).mem.cur.rdata (s.peWaited n).sp k r q := ho
    have hrow := ho'.exec_eq
    rw [hmid.spFire_eq, hbusy, Bool.and_false, if_neg Bool.false_ne_true] at hrow
    have hcycle := hmid.sends_quiet (n := 0) ho'.decode_eq hrow (accepted_of_busy hbusy)
    have hall := hbefore.trans hcycle
    rwa [State.peWaited_peWaited] at hall

/-- A request on the port of a ready PE is taken in (R131). -/
theorem AfterBringup.sends_fire (h : AfterBringup 1 s) (ho : SpOffers s.cfg s.mem.cur.rdata s.sp k r q)
    (hready : s.reqReady = true) : Sends 1 s [r] ((s.peAccepted r).setSp q) := by
  have hport : s.port = some r := by rw [h.port_eq, ho.valid, ho.spReq_eq]; rfl
  have hrow := ho.exec_eq
  rw [h.spFire_eq, ho.valid, hready, Bool.and_self, if_pos rfl] at hrow
  have hcycle := h.step_eq (n := 0) (q := q) (m := s.mem) ho.decode_eq hrow
  rw [hport, peRule_idle (reqReady_iff.1 hready)] at hcycle
  rw [← accepted_of_port (rst_of_noRst h.rstLow) hready hport]
  exact Sends.of_step hcycle

/-- A request of the SP, from its first cycle on the port to its acceptance. -/
theorem AfterBringup.sends_request (h : AfterBringup (peLeft s.cfg s.pe + 1) s) (ho : SpOffers s.cfg s.mem.cur.rdata s.sp k r q) :
    Sends (peLeft s.cfg s.pe + 1) s [r] ((s.submitted r).setSp q) := by
  obtain ⟨hw, -, hok, -⟩ := h.inv
  have hhold := (h.mono (Nat.le_succ _)).sends_hold ho le_rfl
  have hready : (s.peWaited (peLeft s.cfg s.pe)).reqReady = true :=
    reqReady_iff.2 ((peTrace_idle_iff (Cfg.wf_tSetup hw) (Cfg.wf_tActive hw) hok).2 le_rfl)
  exact hhold.trans ((h.of_sends hhold h.alone h.done).sends_fire ho hready)

/-- A request of the SP that is on the port from the cycle after an acceptance on (R144). -/
theorem AfterBringup.sends_next {r' : Req} (h : AfterBringup (byteCycles s.cfg + 1) s) (ha : JustAccepted r' s)
    (ho : SpOffers s.cfg s.mem.cur.rdata s.sp k r q) : Sends (byteCycles s.cfg + 1) s [r] ((s.submitted r).setSp q) := by
  rw [← ha.peLeft_eq] at h ⊢
  exact h.sends_request ho

/-- The cycle that reads a pixel's cell: the PE goes on with nothing offered to it (R204). -/
theorem AfterBringup.sends_read {v : Bool} (h : AfterBringup 1 s) (hp : s.sp.phase = spRENDER) (hs : s.sp.sub = sub0)
    (hv : pixelCell s.cfg s.mem.cur.cells s.sp.col s.sp.pag = v) : Sends 1 s [] (s.pixelRead v) := by
  obtain ⟨hw, hm, -, -, hsp, -⟩ := h.inv
  obtain ⟨hcol, hpag⟩ := pixel_lt_of_spOk hw hsp
  have hk : decodeSpState (s.sp.phase ++ s.sp.sub) = .ok .spRenderAddr := by rw [spCode_of_fields hp hs]; rfl
  have hport : s.port = none := by rw [h.port_eq, spReqValid_renderAddr hp hs]; rfl
  rw [← hv]
  exact h.sends_quiet (n := 0) hk (exec_spRenderAddr_eq hm hcol hpag) (accepted_of_no_port hport)

theorem one_le_byteCycles {c : Cfg} (hw : c.wf = true) : 1 ≤ byteCycles c := by
  have hpos := Cfg.wf_tSetup hw
  unfold byteCycles slotCycles
  omega

/-- The cycles of a pixel: two bytes, each from one acceptance to the next (R310). -/
def pixelCycles (c : Cfg) : Nat := 2 * (byteCycles c + 1)

/-- A pixel's first byte, from the cycle after an acceptance to its own: the frame of the byte before covers the cycle that reads the
cell and the cycles in which the first byte is held (R204, R205). -/
theorem AfterBringup.sends_byte0 {v : Bool} (h : AfterBringup (byteCycles s.cfg + 1) s) (ha : JustAccepted r s)
    (hp : s.sp.phase = spRENDER) (hs : s.sp.sub = sub0) (hv : pixelCell s.cfg s.mem.cur.cells s.sp.col s.sp.pag = v) :
    Sends (byteCycles s.cfg + 1) s [paramReq (pixelByte v)]
      (s.pixelShown (byteCycles s.cfg + 1) { s.sp with sub := sub2 } v) := by
  obtain ⟨hw, -, hok, -⟩ := h.inv
  have hB : 1 ≤ peLeft s.cfg s.pe := ha.peLeft_eq ▸ one_le_byteCycles hw
  have hleft : byteCycles s.cfg = 1 + peLeft (s.pixelRead v).cfg (s.pixelRead v).pe := by
    have hone := peLeft_peTrace (ms := s.misoAt) (Cfg.wf_tSetup hw) (Cfg.wf_tActive hw) hok 1
    rw [← ha.peLeft_eq]
    exact (Nat.add_sub_cancel' hB).symm.trans (congrArg (1 + ·) hone.symm)
  have hsubmitted : (s.pixelRead v).submitted (paramReq (pixelByte v))
      = ((s.submitted (paramReq (pixelByte v))).setSp { s.sp with sub := sub1 }).setMem (s.mem.curRead v) := by
    rw [State.pixelRead, State.submitted_setMem, State.submitted_setSp, State.submitted_peWaited hw hok hB]
  have ho : SpOffers s.cfg v { s.sp with sub := sub1 } .spRenderByte0 (paramReq (pixelByte v)) { s.sp with sub := sub2 } :=
    .byte0 hp rfl
  have hread := (h.mono (Nat.le_add_left 1 _)).sends_read hp hs hv
  rw [← ha.pixelShown_eq hw]
  rw [hleft, Nat.add_assoc] at h ⊢
  have hbyte := (h.of_sends hread h.alone h.done).sends_request (s := s.pixelRead v) ho
  rw [hsubmitted] at hbyte
  exact hread.trans hbyte

/-- A pixel, from the cycle after an acceptance to the acceptance of its second byte (R204 to R206, R310). -/
theorem AfterBringup.sends_pixel {v : Bool} (h : AfterBringup (pixelCycles s.cfg) s) (ha : JustAccepted r s)
    (hp : s.sp.phase = spRENDER) (hs : s.sp.sub = sub0) (hv : pixelCell s.cfg s.mem.cur.cells s.sp.col s.sp.pag = v) :
    Sends (pixelCycles s.cfg) s (pixelRequests v) (s.pixelShown (pixelCycles s.cfg) (nextPixelRule s.cfg s.sp) v) := by
  have hw := h.inv.1
  have ho : SpOffers s.cfg v { s.sp with sub := sub2 } .spRenderByte1 (paramReq (pixelByte v)) (nextPixelRule s.cfg s.sp) :=
    nextPixelRule_sub s.cfg s.sp sub2 ▸ .byte1 hp rfl
  rw [pixelCycles, Nat.two_mul] at h ⊢
  have hfirst := (h.mono (Nat.le_add_right _ _)).sends_byte0 ha hp hs hv
  have hmid : JustAccepted _ (s.pixelShown (byteCycles s.cfg + 1) { s.sp with sub := sub2 } v) := justAccepted_pixelShown
  have hbyte := (h.of_sends hfirst h.alone h.done).sends_next hmid ho
  have hend := hmid.pixelShown_eq (q := nextPixelRule s.cfg s.sp) (v := v) hw
  rw [State.pixelShown_pixelShown] at hend
  exact hend ▸ hfirst.trans hbyte

/-- The requests of n pixels of page pag, from column col on (R111). -/
def rowStream (c : Cfg) (cells : List Bool) (pag col n : Nat) : List Req :=
  (List.range' col n).flatMap fun col => pixelRequests (pixelCell c cells col pag)

/-- The requests of n pages, from page pag on (R111). -/
def pageStream (c : Cfg) (cells : List Bool) (pag n : Nat) : List Req :=
  (List.range' pag n).flatMap fun pag => rowStream c cells pag 0 c.dispCols

/-- A frame is the begin-write command and then all pages (R111, R209). -/
theorem frameStream_eq (c : Cfg) (cells : List Bool) :
    frameStream c cells = cmdReq c.cmdRamwr :: pageStream c cells 0 c.dispPages := by
  simp only [pageStream, rowStream, ← List.range_eq_range']
  rfl

/-- The rest of a page, n + 1 pixels from the current one on (R206). -/
theorem AfterBringup.sends_page (h : AfterBringup ((n + 1) * pixelCycles s.cfg) s) (ha : JustAccepted r s)
    (hp : s.sp.phase = spRENDER) (hs : s.sp.sub = sub0) (hn : s.sp.col + (n + 1) = s.cfg.dispCols) :
    ∃ v, Sends ((n + 1) * pixelCycles s.cfg) s (rowStream s.cfg s.mem.cur.cells s.sp.pag s.sp.col (n + 1))
      (s.pixelShown ((n + 1) * pixelCycles s.cfg) (s.sp.pageEnd s.cfg) v) := by
  induction n generalizing s r with
  | zero =>
    obtain ⟨hw, -, -, -, hsp, -⟩ := h.inv
    rw [Nat.zero_add, Nat.one_mul] at h ⊢
    have hpixel := h.sends_pixel ha hp hs rfl
    rw [nextPixelRule_pageEnd hn (pixel_lt_of_spOk hw hsp).2] at hpixel
    rw [rowStream, List.range'_one, List.flatMap_singleton]
    exact ⟨_, hpixel⟩
  | succ n ih =>
    rw [Nat.add_mul (n + 1), Nat.one_mul, Nat.add_comm (_ * _)] at h ⊢
    have hpixel := (h.mono (Nat.le_add_right _ _)).sends_pixel ha hp hs rfl
    rw [nextPixelRule_next (by omega)] at hpixel
    have hn' : s.sp.col + 1 + (n + 1) = s.cfg.dispCols := by omega
    obtain ⟨v, hrest⟩ := ih (s := s.pixelShown _ _ _) (h.of_sends hpixel h.alone h.done) justAccepted_pixelShown hp rfl hn'
    have hall := hpixel.trans hrest
    rw [State.pixelShown_pixelShown] at hall
    rw [rowStream, List.range'_succ, List.flatMap_cons]
    exact ⟨v, hall⟩

/-- A page from its first pixel on (R206). -/
theorem AfterBringup.sends_wholePage (h : AfterBringup (s.cfg.dispCols * pixelCycles s.cfg) s) (ha : JustAccepted r s)
    (hp : s.sp.phase = spRENDER) (hs : s.sp.sub = sub0) (hcol : s.sp.col = 0) :
    ∃ v, Sends (s.cfg.dispCols * pixelCycles s.cfg) s (rowStream s.cfg s.mem.cur.cells s.sp.pag 0 s.cfg.dispCols)
      (s.pixelShown (s.cfg.dispCols * pixelCycles s.cfg) (s.sp.pageEnd s.cfg) v) := by
  obtain ⟨k, hk⟩ : ∃ k, s.cfg.dispCols = k + 1 := ⟨_, (Nat.sub_add_cancel (Cfg.wf_dispCols h.inv.1)).symm⟩
  rw [hk] at h ⊢
  rw [← hcol]
  exact h.sends_page ha hp hs (by omega)

/-- The rest of a frame, n + 1 pages from the beginning of the current one on (R206). -/
theorem AfterBringup.sends_pages (h : AfterBringup ((n + 1) * (s.cfg.dispCols * pixelCycles s.cfg)) s) (ha : JustAccepted r s)
    (hp : s.sp.phase = spRENDER) (hs : s.sp.sub = sub0) (hcol : s.sp.col = 0) (hn : s.sp.pag + (n + 1) = s.cfg.dispPages) :
    ∃ v, Sends ((n + 1) * (s.cfg.dispCols * pixelCycles s.cfg)) s (pageStream s.cfg s.mem.cur.cells s.sp.pag (n + 1))
      (s.pixelShown ((n + 1) * (s.cfg.dispCols * pixelCycles s.cfg)) s.sp.evolveStart v) := by
  induction n generalizing s r with
  | zero =>
    rw [Nat.zero_add, Nat.one_mul] at h ⊢
    obtain ⟨v, hrow⟩ := h.sends_wholePage ha hp hs hcol
    rw [SpRegs.pageEnd, if_pos hn] at hrow
    rw [pageStream, List.range'_one, List.flatMap_singleton]
    exact ⟨v, hrow⟩
  | succ n ih =>
    rw [Nat.add_mul (n + 1), Nat.one_mul, Nat.add_comm (_ * _)] at h ⊢
    obtain ⟨v, hrow⟩ := (h.mono (Nat.le_add_right _ _)).sends_wholePage ha hp hs hcol
    rw [SpRegs.pageEnd, if_neg (by omega)] at hrow
    have hn' : s.sp.pag + 1 + (n + 1) = s.cfg.dispPages := by omega
    obtain ⟨v', hrest⟩ := ih (s := s.pixelShown _ _ _) (h.of_sends hrow h.alone h.done) justAccepted_pixelShown hp rfl rfl hn'
    have hall := hrow.trans hrest
    rw [State.pixelShown_pixelShown] at hall
    rw [pageStream, List.range'_succ, List.flatMap_cons]
    exact ⟨v', hall⟩

/-- The cycles of a frame's pixels (R310). -/
def frameCycles (c : Cfg) : Nat := c.dispPages * (c.dispCols * pixelCycles c)

/-- A render pass: the begin-write command, held until the PE is in IDLE, and then every pixel of the display (R209, R310). -/
theorem AfterBringup.sends_frame (h : AfterBringup (peLeft s.cfg s.pe + 1 + frameCycles s.cfg) s) (hp : s.sp.phase = spBEGIN) :
    ∃ v, Sends (peLeft s.cfg s.pe + 1 + frameCycles s.cfg) s (frameStream s.cfg s.mem.cur.cells)
      ((s.submitted (cmdReq s.cfg.cmdRamwr)).pixelShown (frameCycles s.cfg) s.sp.evolveStart v) := by
  obtain ⟨hw, -, -, -, hsp, -⟩ := h.inv
  obtain ⟨hs, -⟩ := (spOk_start_iff (.inr hp)).1 hsp
  obtain ⟨k, hk⟩ : ∃ k, s.cfg.dispPages = k + 1 := ⟨_, (Nat.sub_add_cancel (Cfg.wf_dispPages hw)).symm⟩
  have hcommand := (h.mono (Nat.le_add_right _ _)).sends_request (.beginWrite hp hs)
  rw [frameCycles, hk] at h
  rw [frameStream_eq, frameCycles, hk]
  obtain ⟨v, hpixels⟩ := (h.of_sends hcommand h.alone h.done).sends_pages (justAccepted_submitted rfl).setSp rfl rfl rfl
    ((Nat.zero_add _).trans hk.symm)
  exact ⟨v, hcommand.trans hpixels⟩

end

end Sys2Proof.Safety

namespace Sys2Proof.Proofs

open Sys2Proof.Machine Sys2Proof.Safety

/-- Settles O56: the begin-write command is taken in at once, and each byte B + 1 cycles after the one before it; only rdata of the
current bank has moved. -/
theorem renderSendsTheFrame : Obligations.RenderSendsTheFrame := by
  intro s hinv hext hp hready hr
  have hdone : s.done = true := done_of_inv hinv (by simp [hp])
  have hcycles : 1 + 2 * (byteCycles s.cfg + 1) * (s.cfg.dispCols * s.cfg.dispPages)
      = peLeft s.cfg s.pe + 1 + frameCycles s.cfg := by
    rw [peLeft_idle (reqReady_iff.1 hready), frameCycles, pixelCycles]
    ring
  rw [hcycles] at hr ⊢
  have h : AfterBringup _ s := ⟨hinv, hext, hdone, hr⟩
  obtain ⟨v, hframe⟩ := h.sends_frame hp
  exact ⟨_, hframe.run, hframe.stream, rfl, rfl, rfl, rfl, rfl, rfl, rfl, rfl⟩

/-- Settles O23: the render address is the cell of the pixel's block, which the bank has. -/
theorem renderAddrReadsThePixelsCell : Obligations.RenderAddrReadsThePixelsCell := by
  intro s _ hm hcol hpag
  obtain ⟨hcur, -⟩ := Memory.wf_iff.1 hm
  exact ⟨_, cell_pixel hcur hcol hpag, exec_spRenderAddr_eq hm hcol hpag, spReqValid_renderAddr⟩

/-- Settles O36: a row's commit keeps the registers that the row does not name, and a bank keeps what its ports do not touch. -/
theorem spRowsTouchWhatTheyName : Obligations.SpRowsTouchWhatTheyName := by
  intro s t i hst hi
  obtain ⟨q, cur, nxt, hrow, hregs, hports⟩ := exec_spRow_frame s hi
  obtain ⟨c, n, hc, hn, rfl⟩ := spCommit_next (hrow ▸ hst)
  refine ⟨⟨rfl, rfl, rfl, rfl, rfl, rfl⟩, hregs.pixel, hregs.cell, hregs.sum, hregs.alive,
    fun h => Bank.clock_rdata hc (hports.curRead h), fun h => Bank.clock_rdata hn (hports.nxtRead h), fun a ha => ?_, fun a ha => ?_⟩
  · refine Bank.clock_cell hn fun v hw => ?_
    obtain ⟨hwrite, haddr⟩ := hports.nxtWrite a v hw
    exact ha hwrite haddr
  · refine Bank.clock_cell hc fun v hw => ?_
    obtain ⟨hwrite, haddr⟩ := hports.curWrite a v hw
    exact ha hwrite haddr

/-- Settles O49: the index of a block on each axis is a cell's, and the wrap gives it back. -/
theorem pixelShowsItsBlocksCell : Obligations.PixelShowsItsBlocksCell := by
  intro c col pag _ hcol hpag
  exact ⟨(wrap_block hcol).2, (wrap_block hpag).2, pixelAddr_eq hcol hpag, pixelAddr_lt hcol hpag⟩

/-- Settles O12: the SP's lines phase by phase. -/
theorem spOutputsAreMoore : Obligations.SpOutputsAreMoore := by
  intro s
  refine ⟨spReqValid_iff, fun hp => ?_, fun hp hs => ?_, spReq_data_of_not_valid, ?_, rfl⟩
  · rw [spReq_begin hp]
    rfl
  · rw [spReq_pixel hp hs]
    rfl
  · exact beq_iff_eq

/-- Settles O22: each row waits for its own event, and before done the multiplexer selects the IS. -/
theorem bringupAndBeginWrite : Obligations.BringupAndBeginWrite := by
  intro s
  have hbringup : exec .spBringup s = .next (s.setSp (if s.done then { s.sp with phase := spBEGIN, sub := sub0 } else s.sp)) := rfl
  have hbegin : exec .spBeginWrite s
      = .next (s.setSp (if s.spFire then { s.sp with col := 0, pag := 0, phase := spRENDER, sub := sub0 } else s.sp)) := rfl
  rw [hbringup, hbegin]
  refine ⟨fun hd => ?_, fun hd => ?_, spReqValid_bringup, fun hd he => ?_, fun hp => ?_, fun hf => ?_, fun hf => ?_⟩
  · rw [if_pos hd]
  · rw [hd]
    rfl
  · have hsel := selected_of_not_done he hd
    simp [State.reqValid, State.reqLines, State.lcdRstN, hsel, hd]
  · exact ⟨spReqValid_iff.2 (.inl hp), spReq_begin hp⟩
  · rw [if_pos hf]
  · rw [hf]
    rfl

/-- Settles O24: both rows offer the pixel's byte and wait for their transfer; the scan over pixels has three cases. -/
theorem renderBytesOfferThePixel : Obligations.RenderBytesOfferThePixel := by
  intro s
  have hbyte0 : exec .spRenderByte0 s = .next (s.setSp (if s.spFire then { s.sp with sub := sub2 } else s.sp)) := rfl
  have hbyte1 : exec .spRenderByte1 s = .next (s.setSp (if s.spFire then nextPixelRule s.cfg s.sp else s.sp)) := rfl
  rw [hbyte0, hbyte1]
  refine ⟨fun hp hs => ⟨spReqValid_iff.2 (.inr ⟨hp, hs⟩), spReq_pixel hp hs⟩, fun hf => ?_, fun hf => ?_, fun hf hcol => ?_,
    fun hf hcol hpag => ?_, fun hf hcol hpag => ?_, fun hf => ?_⟩
  · rw [if_pos hf]
  · rw [hf]
    rfl
  · rw [if_pos hf, nextPixelRule_next hcol]
  · rw [if_pos hf, nextPixelRule_page hcol hpag]
  · rw [if_pos hf, nextPixelRule_last hcol hpag]
  · rw [hf]
    rfl

end Sys2Proof.Proofs
end

section
/-! SUPPORT. The family of 43_evolve_transition.md: the wrap at the edges of the grid and the visits of a target, the row of each evolve and
transition cycle in closed form, the scan over cells by address, and an evolve pass, a transition pass and the generations of a seed as runs
of the core. -/

namespace Sys2Proof.Machine

open Sys2Proof.Safety

/-! The wrap and the visits of a target (R230 to R235). -/

section
variable {c : Cfg} {d x y v : Nat}

/-- The scan coordinates of a cell's visits on one axis, and the two edges at which one of them wraps (R233). -/
theorem visitCoordinate_bounds {o : Nat} (hx : x < d) (ho : o ≤ 2) :
    x + o ≤ d + 1 ∧ (x + o = 0 ↔ x = 0 ∧ o = 0) ∧ (x + o = d + 1 ↔ x + 1 = d ∧ o = 2) := by omega

/-- The two offsets of a visit are 0, 1 or 2 (R231). -/
theorem visitOffset_le (hv : v ≤ 8) : v % 3 ≤ 2 ∧ v / 3 ≤ 2 := by omega

/-- The neighbour beyond the last column or row is the first one (R245). -/
theorem wrap_beyond_last (hd : 1 ≤ d) : wrap d (d - 1 + 2) = 0 := by
  rw [show d - 1 + 2 = d + 1 by omega, wrap_last]

/-- On an axis of at least three cells the three offsets of a visit are three cells (R235). -/
theorem wrap_offset_inj {i j : Nat} (hd : 3 ≤ d) (hx : x < d) (hi : i ≤ 2) (hj : j ≤ 2) (h : wrap d (x + i) = wrap d (x + j)) :
    i = j := by
  unfold wrap at h
  split_ifs at h <;> omega

/-- A visit is the cell that its two scan coordinates wrap to (R231). -/
theorem visitAddr_of_wrap {x' y' : Nat} (hx : wrap c.gridW (x + v % 3) = x') (hy : wrap c.gridH (y + v / 3) = y') :
    visitAddr c x y v = cellAddr c x' y' := by rw [visitAddr, hx, hy]

/-- A visit is the cell at its offset on the torus (R231, R235). -/
theorem visitAddr_eq_mod (hx : x < c.gridW) (hy : y < c.gridH) (hv : v ≤ 8) :
    visitAddr c x y v = cellAddr c ((x + v % 3 + c.gridW - 1) % c.gridW) ((y + v / 3 + c.gridH - 1) % c.gridH) :=
  visitAddr_of_wrap (wrap_eq_mod (by omega) (visitCoordinate_bounds hx (visitOffset_le hv).1).1)
    (wrap_eq_mod (by omega) (visitCoordinate_bounds hy (visitOffset_le hv).2).1)

/-- Visit 4 is the target (R231). -/
theorem visitAddr_centre (hx : x < c.gridW) (hy : y < c.gridH) : visitAddr c x y 4 = cellAddr c x y :=
  visitAddr_of_wrap (wrap_succ hx) (wrap_succ hy)

/-- On a grid of at least 3 by 3 the nine visits of a target have nine addresses (R235). -/
theorem visitAddr_inj {u : Nat} (hx : x < c.gridW) (hy : y < c.gridH) (hw : 3 ≤ c.gridW) (hh : 3 ≤ c.gridH) (hu : u ≤ 8)
    (hv : v ≤ 8) (h : visitAddr c x y u = visitAddr c x y v) : u = v := by
  obtain ⟨hmodu, hdivu⟩ := visitOffset_le hu
  obtain ⟨hmodv, hdivv⟩ := visitOffset_le hv
  have hwrap {o : Nat} (ho : o ≤ 2) : wrap c.gridW (x + o) < c.gridW := wrap_lt (by omega) (visitCoordinate_bounds hx ho).1
  obtain ⟨hcol, hrow⟩ := cellAddr_inj (hwrap hmodu) (hwrap hmodv) h
  have hmod : u % 3 = v % 3 := wrap_offset_inj hw hx hmodu hmodv hcol
  have hdiv : u / 3 = v / 3 := wrap_offset_inj hh hy hdivu hdivv hrow
  omega

end

/-! One row of EVOLVE or TRANSITION in closed form (R236 to R238, R241, R242). -/

/-- The banks after a read of the next bank that gives v (R72). -/
def Memory.nxtRead (m : Memory) (v : Bool) : Memory := { m with nxt := { m.nxt with rdata := v } }

/-- The banks after a write of the current bank (R73). -/
def Memory.curWrite (m : Memory) (a : Nat) (v : Bool) : Memory := { m with cur := { m.cur with cells := m.cur.cells.set a v } }

/-- The banks after a write of the next bank (R73). -/
def Memory.nxtWrite (m : Memory) (a : Nat) (v : Bool) : Memory := { m with nxt := { m.nxt with cells := m.nxt.cells.set a v } }

section
variable {b : Bank} {a : Nat}

/-- An address that the bank has. -/
theorem Bank.cell_of_lt (h : a < b.cells.length) : b.cell a = some (b.cells.getD a false) := by simp [Bank.cell, h]

/-- A read of an address that the bank has (R72). -/
theorem Bank.clock_memRead_getD (h : a < b.cells.length) : b.clock (.memRead a) = .ok { b with rdata := b.cells.getD a false } := by
  simp [Bank.clock_memRead h, h]

end

section
variable {s : State}

theorem cellAddr_lt_cur (hm : Memory.wf s.cfg.cellCount s.mem = true) (hx : s.sp.cx < s.cfg.gridW) (hy : s.sp.cy < s.cfg.gridH) :
    cellAddr s.cfg s.sp.cx s.sp.cy < s.mem.cur.cells.length := (Memory.wf_iff.1 hm).1 ▸ cellAddr_lt hx hy

theorem cellAddr_lt_nxt (hm : Memory.wf s.cfg.cellCount s.mem = true) (hx : s.sp.cx < s.cfg.gridW) (hy : s.sp.cy < s.cfg.gridH) :
    cellAddr s.cfg s.sp.cx s.sp.cy < s.mem.nxt.cells.length := (Memory.wf_iff.1 hm).2 ▸ cellAddr_lt hx hy

theorem visitAddr_lt_cur {v : Nat} (hm : Memory.wf s.cfg.cellCount s.mem = true) (hx : s.sp.cx < s.cfg.gridW)
    (hy : s.sp.cy < s.cfg.gridH) (hv : v ≤ 8) : visitAddr s.cfg s.sp.cx s.sp.cy v < s.mem.cur.cells.length :=
  (Memory.wf_iff.1 hm).1 ▸ visitAddr_lt hx hy hv

/-- SP_EVOLVE_ADDR reads the cell of its visit (R236). -/
theorem exec_spEvolveAddr_eq (hm : Memory.wf s.cfg.cellCount s.mem = true) (hx : s.sp.cx < s.cfg.gridW) (hy : s.sp.cy < s.cfg.gridH)
    (hv : s.sp.v.toNat ≤ 8) :
    exec .spEvolveAddr s
      = .next ((s.setSp { s.sp with sub := sub1 }).setMem
          (s.mem.curRead (s.mem.cur.cells.getD (visitAddr s.cfg s.sp.cx s.sp.cy s.sp.v.toNat) false))) :=
  spCommit_of_ok (Bank.clock_memRead_getD (visitAddr_lt_cur hm hx hy hv)) (Bank.clock_quiet _)

/-- SP_EVOLVE_ACC uses no bank (R237). -/
theorem exec_spEvolveAcc_eq (s : State) : exec .spEvolveAcc s = .next (s.setSp (accumulateRule s.mem.cur.rdata s.sp)) := rfl

/-- SP_EVOLVE_WRITE writes the life rule's cell at the target's address (R238). -/
theorem exec_spEvolveWrite_eq (hm : Memory.wf s.cfg.cellCount s.mem = true) (hx : s.sp.cx < s.cfg.gridW) (hy : s.sp.cy < s.cfg.gridH) :
    exec .spEvolveWrite s
      = .next ((s.setSp (nextCellRule s.cfg spTRANSITION { s.sp with n := 0#4, v := 0#4 })).setMem
          (s.mem.nxtWrite (cellAddr s.cfg s.sp.cx s.sp.cy) (life s.sp.alive s.sp.n.toNat))) :=
  spCommit_of_ok (Bank.clock_quiet _) (Bank.clock_memWrite _ (cellAddr_lt_nxt hm hx hy))

/-- SP_TRANSITION_LOAD reads the target's cell of the next bank (R241). -/
theorem exec_spTransitionLoad_eq (hm : Memory.wf s.cfg.cellCount s.mem = true) (hx : s.sp.cx < s.cfg.gridW)
    (hy : s.sp.cy < s.cfg.gridH) :
    exec .spTransitionLoad s
      = .next ((s.setSp { s.sp with sub := sub1 }).setMem
          (s.mem.nxtRead (s.mem.nxt.cells.getD (cellAddr s.cfg s.sp.cx s.sp.cy) false))) :=
  spCommit_of_ok (Bank.clock_quiet _) (Bank.clock_memRead_getD (cellAddr_lt_nxt hm hx hy))

/-- SP_TRANSITION_WRITE writes what was read at the target's address of the current bank (R242). -/
theorem exec_spTransitionWrite_eq (hm : Memory.wf s.cfg.cellCount s.mem = true) (hx : s.sp.cx < s.cfg.gridW)
    (hy : s.sp.cy < s.cfg.gridH) :
    exec .spTransitionWrite s
      = .next ((s.setSp (nextCellRule s.cfg spBEGIN s.sp)).setMem
          (s.mem.curWrite (cellAddr s.cfg s.sp.cx s.sp.cy) s.mem.nxt.rdata)) :=
  spCommit_of_ok (Bank.clock_memWrite _ (cellAddr_lt_cur hm hx hy)) (Bank.clock_quiet _)

/-- EVOLVE and TRANSITION offer nothing (R236, R201). -/
theorem spReqValid_scan (hp : s.sp.phase = spEVOLVE ∨ s.sp.phase = spTRANSITION) : s.spReqValid = false := by
  rcases hp with hp | hp <;> simp [State.spReqValid, State.spOffersPixel, hp]

end

/-! The rule of life, and the visits taken in (R234, R237). -/

/-- A live cell survives with 2 or 3 neighbours (R234). -/
theorem life_alive_iff (n : Nat) : life true n = true ↔ n = 2 ∨ n = 3 := by simp [life]

/-- A dead cell is born with 3 neighbours (R234). -/
theorem life_dead_iff (n : Nat) : life false n = true ↔ n = 3 := by simp [life]

section
variable {c : Cfg} {d : Bool} {p : SpRegs}

/-- The centre's visit (R237). -/
theorem accumulateRule_centre (h : p.v = 4#4) : accumulateRule d p = { p with alive := d, v := 5#4, sub := sub0 } := by
  simp [accumulateRule, h]

/-- A neighbour's visit before the last one (R237). -/
theorem accumulateRule_neighbour (h4 : p.v ≠ 4#4) (h8 : p.v ≠ 8#4) :
    accumulateRule d p = { p with n := p.n + (BitVec.ofBool d).setWidth 4, v := p.v + 1#4, sub := sub0 } := by
  simp [accumulateRule, h4, h8]

/-- The last neighbour's visit (R237). -/
theorem accumulateRule_last (h : p.v = 8#4) :
    accumulateRule d p = { p with n := p.n + (BitVec.ofBool d).setWidth 4, sub := sub2 } := by
  simp [accumulateRule, h]

/-- Before a visit is taken in, the sum is below 8: it is at most the number of neighbours visited so far (R237). -/
theorem sum_lt_of_spOk (h : SpOk c p) (hp : p.phase = spEVOLVE) (hs : p.sub = sub1) : p.n.toNat < 8 := by
  obtain ⟨-, -, -, hvisit, -⟩ := (spOk_evolve_iff hp).1 h
  obtain ⟨hv, hn⟩ := hvisit (by simp [hs])
  split_ifs at hn <;> omega

end

/-- The live cells among the first k visits of a target, the centre's not counted (R235, R237). -/
def liveVisits (c : Cfg) (cells : List Bool) (x y : Nat) : Nat → Nat
  | 0 => 0
  | k + 1 => liveVisits c cells x y k + if k = 4 then 0 else (cells.getD (visitAddr c x y k) false).toNat

/-- All nine visits count the eight neighbours (R239). -/
theorem liveVisits_nine (c : Cfg) (cells : List Bool) (x y : Nat) : liveVisits c cells x y 9 = neighbourCount c cells x y := by
  simp [liveVisits, neighbourCount, Nat.add_assoc]

/-- The SP's registers after the first k visits of its target in the grid cells; after the ninth the target's cell is to be written
(R237). -/
structure AfterVisits (c : Cfg) (cells : List Bool) (k : Nat) (p : SpRegs) : Prop where
  phase : p.phase = spEVOLVE
  sub : p.sub = if k = 9 then sub2 else sub0
  v : k ≤ 8 → p.v.toNat = k
  sum : p.n.toNat = liveVisits c cells p.cx p.cy k
  alive : 4 < k → p.alive = cells.getD (visitAddr c p.cx p.cy 4) false

section
variable {c : Cfg} {cells : List Bool} {k : Nat} {d : Bool} {p : SpRegs}

/-- A target is begun with the visit counter and the sum at 0 (R238). -/
theorem AfterVisits.begin (hp : p.phase = spEVOLVE) (hs : p.sub = sub0) (hv : p.v = 0#4) (hn : p.n = 0#4) :
    AfterVisits c cells 0 p :=
  ⟨hp, hs, fun _ => by simp [hv], by simp [hn, liveVisits], by omega⟩

/-- Taking a visit's bit in goes on to the next visit (R237). -/
theorem AfterVisits.take (h : AfterVisits c cells k p) (hk : k ≤ 8) (hn : p.n.toNat < 8)
    (hd : d = cells.getD (visitAddr c p.cx p.cy k) false) : AfterVisits c cells (k + 1) (accumulateRule d p) := by
  obtain ⟨hp, -, hv, hsum, halive⟩ := h
  have hv := hv hk
  have hbit := toNat_addBit d hn
  by_cases h4 : p.v = 4#4
  · obtain rfl : k = 4 := by rw [← hv, h4]; rfl
    rw [accumulateRule_centre h4]
    exact ⟨hp, rfl, fun _ => rfl, hsum, fun _ => hd⟩
  have hk4 : k ≠ 4 := by bv_omega
  have hsum' : (p.n + (BitVec.ofBool d).setWidth 4).toNat = liveVisits c cells p.cx p.cy (k + 1) := by
    rw [hbit, hsum, hd, liveVisits, if_neg hk4]
  have halive' : 4 < k + 1 → p.alive = cells.getD (visitAddr c p.cx p.cy 4) false := fun hlt => halive (by omega)
  by_cases h8 : p.v = 8#4
  · obtain rfl : k = 8 := by rw [← hv, h8]; rfl
    rw [accumulateRule_last h8]
    exact ⟨hp, rfl, by omega, hsum', halive'⟩
  · have hk8 : k ≠ 8 := by bv_omega
    rw [accumulateRule_neighbour h4 h8]
    exact ⟨hp, by simp [hk8], fun _ => by show (p.v + 1#4).toNat = k + 1; bv_omega, hsum', halive'⟩

end

/-! The scan over cells by address (R71, R238, R242). -/

/-- The scan of a phase is at the cell of address a, or past the last cell and at the start of the phase that follows. -/
inductive ScanAt (c : Cfg) (phase after : BitVec 3) (a : Nat) (p : SpRegs) : Prop where
  | cell (hp : p.phase = phase) (hs : p.sub = sub0) (hx : p.cx < c.gridW) (hy : p.cy < c.gridH) (ha : cellAddr c p.cx p.cy = a)
  | past (hp : p.phase = after) (hs : p.sub = sub0) (hx : p.cx = 0) (hy : p.cy = 0) (ha : a = c.cellCount)

section
variable {c : Cfg} {phase after : BitVec 3} {a : Nat} {p : SpRegs}

/-- The first cell is the one of address 0. -/
theorem ScanAt.first (hw : c.wf = true) (hp : p.phase = phase) (hs : p.sub = sub0) (hx : p.cx = 0) (hy : p.cy = 0) :
    ScanAt c phase after 0 p :=
  .cell hp hs (hx ▸ Cfg.wf_gridW hw) (hy ▸ Cfg.wf_gridH hw) (by simp [cellAddr, hx, hy])

/-- Below the cell count the scan is at a cell. -/
theorem ScanAt.at_cell (h : ScanAt c phase after a p) (ha : a < c.cellCount) :
    p.phase = phase ∧ p.sub = sub0 ∧ (p.cx < c.gridW ∧ p.cy < c.gridH) ∧ cellAddr c p.cx p.cy = a := by
  cases h with
  | cell hp hs hx hy ha => exact ⟨hp, hs, ⟨hx, hy⟩, ha⟩
  | past _ _ _ _ hend => omega

/-- At the cell count the scan is over. -/
theorem ScanAt.at_end (h : ScanAt c phase after c.cellCount p) : p.phase = after ∧ p.sub = sub0 ∧ p.cx = 0 ∧ p.cy = 0 := by
  cases h with
  | cell _ _ hx hy ha => exact absurd ha (cellAddr_lt hx hy).ne
  | past hp hs hx hy _ => exact ⟨hp, hs, hx, hy⟩

/-- The scan goes from a cell to the one of the following address: in its row, at the start of the next row, or past the last one. -/
theorem nextCellRule_scanAt (hp : p.phase = phase) (hx : p.cx < c.gridW) (hy : p.cy < c.gridH) :
    ScanAt c phase after (cellAddr c p.cx p.cy + 1) (nextCellRule c after p) := by
  rcases Nat.lt_or_ge (p.cx + 1) c.gridW with hnext | hge
  · rw [nextCellRule_next after hnext]
    exact .cell hp rfl hnext hy (by simp [cellAddr, Nat.add_assoc])
  have hrow : p.cx + 1 = c.gridW := by omega
  have haddr : cellAddr c p.cx p.cy + 1 = (p.cy + 1) * c.gridW := by rw [cellAddr, Nat.add_assoc, hrow, Nat.add_mul, Nat.one_mul]
  rcases Nat.lt_or_ge (p.cy + 1) c.gridH with hnext | hge
  · rw [nextCellRule_row after hrow hnext]
    exact .cell hp rfl (Nat.zero_lt_of_lt hx) hnext (by rw [haddr]; rfl)
  · have hlast : p.cy + 1 = c.gridH := by omega
    rw [nextCellRule_last after hrow hlast]
    exact .past rfl rfl rfl rfl (by rw [haddr, hlast, Cfg.cellCount, Nat.mul_comm])

/-- The scan over cells keeps the visit counter and the sum. -/
theorem nextCellRule_sum (c : Cfg) (after : BitVec 3) (p : SpRegs) :
    (nextCellRule c after p).v = p.v ∧ (nextCellRule c after p).n = p.n := by
  obtain ⟨x, y, ph, sub, heq⟩ := nextCellRule_frame c after p
  rw [heq]
  exact ⟨rfl, rfl⟩

end

/-- A scan that has copied a list up to an address and writes that list's element there has copied it up to the next address. -/
theorem take_succ_set {α : Type} {l l' : List α} {a : Nat} {v : α} (ha : a < l.length) (hv : l'[a]? = some v)
    (h : l.take a = l'.take a) : (l.set a v).take (a + 1) = l'.take (a + 1) := by
  rw [List.take_add_one, List.take_add_one, List.take_set_of_le le_rfl, List.getElem?_set_self ha, h, hv]

section
variable {c : Cfg} {cells : List Bool} {x y : Nat}

@[simp] theorem length_lifeGrid (c : Cfg) (cells : List Bool) : (lifeGrid c cells).length = c.cellCount := by simp [lifeGrid]

/-- A cell of the next generation (R239). -/
theorem lifeGrid_cellAddr (hx : x < c.gridW) (hy : y < c.gridH) :
    (lifeGrid c cells)[cellAddr c x y]?
      = some (life (cells.getD (cellAddr c x y) false) (neighbourCount c cells x y)) := by
  simp [lifeGrid, cellAddr_lt hx hy, cellAddr_mod y hx, cellAddr_div y hx]

end

end Sys2Proof.Machine

namespace Sys2Proof.Safety

open Sys2Proof.Machine

/-! Runs of EVOLVE and TRANSITION: the SP and the banks go on by themselves, whatever the PE and its port do. -/

/-- A state of the invariant with rst low in the next n cycles. -/
structure Undisturbed (n : Nat) (s : State) : Prop where
  inv : Inv s
  rstLow : NoRst n s

/-- n steps of the core go from s to t, and without an external producer no request is accepted meanwhile. -/
structure Computes (n : Nat) (s t : State) : Prop where
  run : runFor n s = .next t
  silent : s.extReqs = [] → t.extReqs = [] ∧ Sends n s [] t

section
variable {s t u : State} {n m : Nat}

theorem Computes.refl (s : State) : Computes 0 s s := ⟨rfl, fun he => ⟨he, .refl s⟩⟩

/-- One run after another. -/
theorem Computes.trans (h : Computes n s t) (h' : Computes m t u) : Computes (n + m) s u := by
  refine ⟨runFor_add_next.2 ⟨t, h.run, h'.run⟩, fun he => ?_⟩
  obtain ⟨he', hsends⟩ := h.silent he
  obtain ⟨he'', hsends'⟩ := h'.silent he'
  exact ⟨he'', hsends.trans hsends'⟩

theorem Undisturbed.mono (h : Undisturbed m s) (hn : n ≤ m) : Undisturbed n s := ⟨h.inv, noRst_mono hn h.rstLow⟩

/-- The rest of a run after its first part. -/
theorem Undisturbed.of_run (h : Undisturbed (n + m) s) (hrun : runFor n s = .next t) : Undisturbed m t :=
  ⟨inv_of_runFor h.inv hrun, runFor_noRst hrun h.rstLow⟩

theorem Undisturbed.memory_wf (h : Undisturbed n s) : Memory.wf s.cfg.cellCount s.mem = true := by
  obtain ⟨-, hm, -⟩ := h.inv
  exact hm

theorem Undisturbed.spOk (h : Undisturbed n s) : SpOk s.cfg s.sp := by
  obtain ⟨-, -, -, -, hsp, -⟩ := h.inv
  exact hsp

theorem Undisturbed.target_lt (h : Undisturbed n s) : s.sp.cx < s.cfg.gridW ∧ s.sp.cy < s.cfg.gridH :=
  cell_lt_of_spOk h.inv.1 h.spOk

/-- A run in which each of N parts goes from P k to P (k + 1) goes from P 0 to P N. -/
theorem Undisturbed.computes_parts {P : Nat → State → Prop} {N : Nat}
    (hpart : ∀ k < N, ∀ s, Undisturbed m s → P k s → ∃ t, Computes m s t ∧ P (k + 1) t) (h : Undisturbed (N * m) s)
    (h0 : P 0 s) : ∃ t, Computes (N * m) s t ∧ P N t := by
  induction N with
  | zero =>
    rw [Nat.zero_mul]
    exact ⟨s, .refl s, h0⟩
  | succ N ih =>
    rw [Nat.add_mul, Nat.one_mul] at h ⊢
    obtain ⟨t, ht, hP⟩ := ih (fun k hk => hpart k (Nat.lt_succ_of_lt hk)) (h.mono (Nat.le_add_right _ _))
    obtain ⟨u, hu, hP'⟩ := hpart N (Nat.lt_succ_self N) t (h.of_run ht.run) hP
    exact ⟨u, ht.trans hu, hP'⟩

/-- One cycle of EVOLVE or TRANSITION does to the SP and to the banks what its row does, and offers nothing. -/
theorem Undisturbed.computes_row {x : BitVec 3} {y : BitVec 2} {k : Instr} {q : SpRegs} {mem : Memory} (h : Undisturbed (n + 1) s)
    (hp : s.sp.phase = x) (hs : s.sp.sub = y) (hx : x = spEVOLVE ∨ x = spTRANSITION) (hk : decodeSpState (x ++ y) = .ok k)
    (hrow : exec k s = .next ((s.setSp q).setMem mem)) : ∃ t, Computes 1 s t ∧ t.sp = q ∧ t.mem = mem := by
  subst hp hs
  obtain ⟨hinv, hr⟩ := h
  obtain ⟨t, ht⟩ := step_of_inv hinv
  obtain ⟨-, ⟨hrst, -⟩ | ⟨-, _, k', u, -, hk', hu, -, -, -, hsp, hmem, -, hext, -⟩⟩ := step_next ht
  · simp [rst_of_noRst hr] at hrst
  · cases hk.symm.trans hk'
    cases hrow.symm.trans hu
    refine ⟨t, ⟨by rw [runFor_one, ht], fun he => ⟨by simp [hext, extAfter_eq, he], ?_⟩⟩, hsp, hmem⟩
    have hdone : s.done = true := done_of_inv hinv (by rcases hx with hx | hx <;> simp [hx])
    have hafter : AfterBringup (n + 1) s := ⟨hinv, he, hdone, hr⟩
    have hport : s.port = none := by rw [hafter.port_eq, spReqValid_scan hx]; rfl
    rw [← accepted_of_no_port hport]
    exact Sends.of_step ht

/-! An evolve pass (R236 to R239). -/

/-- t is k visits after s, a state at the beginning of a target: neither the target nor the current bank's cells nor the next bank has
changed. -/
structure Visited (s : State) (k : Nat) (t : State) : Prop where
  cfg : t.cfg = s.cfg
  visits : AfterVisits s.cfg s.mem.cur.cells k t.sp
  cx : t.sp.cx = s.sp.cx
  cy : t.sp.cy = s.sp.cy
  cur : t.mem.cur.cells = s.mem.cur.cells
  nxt : t.mem.nxt = s.mem.nxt

/-- Visit k of a target: its cell is read, and a cycle later its bit is taken in, without an overflow of the sum (R232, R236, R237). -/
theorem Undisturbed.computes_visit {k : Nat} (h : Undisturbed 2 s) (hp : s.sp.phase = spEVOLVE) (hs : s.sp.sub = sub0)
    (hv : s.sp.v.toNat = k) (hk : k ≤ 8) :
    ∃ t d, Computes 2 s t ∧ t.sp = accumulateRule d s.sp ∧ t.mem = s.mem.curRead d
      ∧ d = s.mem.cur.cells.getD (visitAddr s.cfg s.sp.cx s.sp.cy k) false ∧ s.sp.n.toNat < 8 := by
  obtain ⟨hx, hy⟩ := h.target_lt
  have hread := exec_spEvolveAddr_eq h.memory_wf hx hy (hv ▸ hk)
  rw [hv] at hread
  obtain ⟨u, hu, husp, humem⟩ := h.computes_row hp hs (.inl rfl) rfl hread
  have h' : Undisturbed 1 u := h.of_run (n := 1) hu.run
  have hp' : u.sp.phase = spEVOLVE := by rw [husp]; exact hp
  have hs' : u.sp.sub = sub1 := by rw [husp]
  have hsum := sum_lt_of_spOk h'.spOk hp' hs'
  obtain ⟨t, ht, htsp, htmem⟩ :=
    h'.computes_row (n := 0) (q := accumulateRule u.mem.cur.rdata u.sp) (mem := u.mem) hp' hs' (.inl rfl) rfl (exec_spEvolveAcc_eq u)
  rw [husp] at hsum htsp
  rw [humem] at htsp htmem
  exact ⟨t, _, hu.trans ht, htsp, htmem, rfl, hsum⟩

/-- The next visit of a target (R232). -/
theorem Visited.computes_next {k : Nat} (hv : Visited s k t) (h : Undisturbed 2 t) (hk : k < 9) :
    ∃ u, Computes 2 t u ∧ Visited s (k + 1) u := by
  obtain ⟨hcfg, hvisits, hcx, hcy, hcur, hnxt⟩ := hv
  have hk8 : k ≤ 8 := Nat.le_of_lt_succ hk
  obtain ⟨u, d, hu, husp, humem, hd, hsum⟩ :=
    h.computes_visit hvisits.phase (hvisits.sub.trans (if_neg hk.ne)) (hvisits.v hk8) hk8
  rw [hcfg, hcur] at hd
  refine ⟨u, hu, (runFor_frame hu.run).1.trans hcfg, husp ▸ hvisits.take hk8 hsum hd, ?_, ?_, ?_, ?_⟩
  · rw [husp]
    exact hcx
  · rw [husp]
    exact hcy
  · rw [humem]
    exact hcur
  · rw [humem]
    exact hnxt

/-- A target: nine visits, and the cycle that writes its cell of the next generation (R238). -/
theorem Undisturbed.computes_target (h : Undisturbed 19 s) (hp : s.sp.phase = spEVOLVE) (hs : s.sp.sub = sub0) (hv : s.sp.v = 0#4)
    (hn : s.sp.n = 0#4) :
    ∃ t q, Computes 19 s t ∧ t.sp = nextCellRule s.cfg spTRANSITION q
      ∧ (q.phase = spEVOLVE ∧ q.cx = s.sp.cx ∧ q.cy = s.sp.cy ∧ q.v = 0#4 ∧ q.n = 0#4)
      ∧ t.mem.cur.cells = s.mem.cur.cells
      ∧ t.mem.nxt.cells = s.mem.nxt.cells.set (cellAddr s.cfg s.sp.cx s.sp.cy)
          (life (s.mem.cur.cells.getD (cellAddr s.cfg s.sp.cx s.sp.cy) false)
            (neighbourCount s.cfg s.mem.cur.cells s.sp.cx s.sp.cy)) := by
  obtain ⟨hx, hy⟩ := h.target_lt
  have hbegin : Visited s 0 s := ⟨rfl, .begin hp hs hv hn, rfl, rfl, rfl, rfl⟩
  obtain ⟨w, hw, hcfg, hvisits, hcx, hcy, hcur, hnxt⟩ :=
    (h.mono (n := 9 * 2) (by omega)).computes_parts (fun k hk _ hu hvk => hvk.computes_next hu hk) hbegin
  have h' : Undisturbed 1 w := h.of_run (n := 9 * 2) hw.run
  have hwrite := exec_spEvolveWrite_eq h'.memory_wf h'.target_lt.1 h'.target_lt.2
  obtain ⟨t, ht, htsp, htmem⟩ := h'.computes_row (n := 0) hvisits.phase hvisits.sub (.inl rfl) rfl hwrite
  rw [hcfg] at htsp
  refine ⟨t, _, hw.trans ht, htsp, ⟨hvisits.phase, hcx, hcy, rfl, rfl⟩, ?_, ?_⟩
  · rw [htmem]
    exact hcur
  · rw [htmem, Memory.nxtWrite, hvisits.alive (by omega), hvisits.sum, hcx, hcy, hcfg, visitAddr_centre hx hy, liveVisits_nine, hnxt]

/-- An evolve pass of the grid cells has written the next generation up to address a (R239). -/
structure EvolvedTo (c : Cfg) (cells : List Bool) (a : Nat) (s : State) : Prop where
  cfg : s.cfg = c
  scan : ScanAt c spEVOLVE spTRANSITION a s.sp
  v : s.sp.v = 0#4
  n : s.sp.n = 0#4
  cur : s.mem.cur.cells = cells
  nxt : s.mem.nxt.cells.take a = (lifeGrid c cells).take a

/-- The next target: its cell of the next generation is written, from the grid as it was before the pass (R239). -/
theorem EvolvedTo.computes_cell {c : Cfg} {cells : List Bool} {a : Nat} (he : EvolvedTo c cells a s) (h : Undisturbed 19 s)
    (ha : a < c.cellCount) : ∃ t, Computes 19 s t ∧ EvolvedTo c cells (a + 1) t := by
  obtain ⟨rfl, hscan, hv, hn, rfl, hnxt⟩ := he
  obtain ⟨hp, hs, ⟨hx, hy⟩, rfl⟩ := hscan.at_cell ha
  obtain ⟨t, q, ht, htsp, ⟨hqp, hqx, hqy, hqv, hqn⟩, htcur, htnxt⟩ := h.computes_target hp hs hv hn
  obtain ⟨hv', hn'⟩ := nextCellRule_sum s.cfg spTRANSITION q
  have hscan' := nextCellRule_scanAt (after := spTRANSITION) hqp (hqx ▸ hx) (hqy ▸ hy)
  rw [hqx, hqy, ← htsp] at hscan'
  refine ⟨t, ht, (runFor_frame ht.run).1, hscan', by rw [htsp, hv', hqv], by rw [htsp, hn', hqn], htcur, ?_⟩
  rw [htnxt]
  exact take_succ_set (cellAddr_lt_nxt h.memory_wf hx hy) (lifeGrid_cellAddr hx hy) hnxt

/-- An evolve pass (R239, R246). -/
theorem Undisturbed.computes_evolve (h : Undisturbed (s.cfg.cellCount * 19) s) (hp : s.sp.phase = spEVOLVE) (hs : s.sp.sub = sub0)
    (hx : s.sp.cx = 0) (hy : s.sp.cy = 0) (hv : s.sp.v = 0#4) (hn : s.sp.n = 0#4) :
    ∃ t, Computes (s.cfg.cellCount * 19) s t ∧ t.mem.nxt.cells = lifeGrid s.cfg s.mem.cur.cells
      ∧ t.mem.cur.cells = s.mem.cur.cells ∧ t.sp.phase = spTRANSITION ∧ t.sp.sub = sub0 ∧ t.sp.cx = 0 ∧ t.sp.cy = 0 := by
  have hbegin : EvolvedTo s.cfg s.mem.cur.cells 0 s := ⟨rfl, .first h.inv.1 hp hs hx hy, hv, hn, rfl, rfl⟩
  obtain ⟨t, ht, hcfg, hscan, -, -, hcur, hnxt⟩ := h.computes_parts (fun a ha _ hu he => he.computes_cell hu ha) hbegin
  have hlen := (Memory.wf_iff.1 (h.of_run (m := 0) ht.run).memory_wf).2
  rw [hcfg] at hlen
  rw [List.take_of_length_le (by omega), List.take_of_length_le (by simp)] at hnxt
  exact ⟨t, ht, hnxt, hcur, hscan.at_end⟩

/-! A transition pass (R241 to R243). -/

/-- A transition pass of the next bank's cells has copied them up to address a (R243). -/
structure CopiedTo (c : Cfg) (cells : List Bool) (a : Nat) (s : State) : Prop where
  cfg : s.cfg = c
  scan : ScanAt c spTRANSITION spBEGIN a s.sp
  nxt : s.mem.nxt.cells = cells
  cur : s.mem.cur.cells.take a = cells.take a

/-- A cell: it is read, and written a cycle later (R241, R242). -/
theorem CopiedTo.computes_cell {c : Cfg} {cells : List Bool} {a : Nat} (hc : CopiedTo c cells a s) (h : Undisturbed 2 s)
    (ha : a < c.cellCount) : ∃ t, Computes 2 s t ∧ CopiedTo c cells (a + 1) t := by
  obtain ⟨rfl, hscan, rfl, hcur⟩ := hc
  obtain ⟨hp, hs, ⟨hx, hy⟩, rfl⟩ := hscan.at_cell ha
  obtain ⟨u, hu, husp, humem⟩ := h.computes_row hp hs (.inr rfl) rfl (exec_spTransitionLoad_eq h.memory_wf hx hy)
  have h' : Undisturbed 1 u := h.of_run (n := 1) hu.run
  have hcfg : u.cfg = s.cfg := (runFor_frame hu.run).1
  have hwrite := exec_spTransitionWrite_eq h'.memory_wf h'.target_lt.1 h'.target_lt.2
  obtain ⟨t, ht, htsp, htmem⟩ :=
    h'.computes_row (n := 0) (x := spTRANSITION) (y := sub1) (by rw [husp]; exact hp) (by rw [husp]) (.inr rfl) rfl hwrite
  rw [hcfg, husp] at htsp htmem
  rw [humem] at htmem
  have hbit : s.mem.nxt.cells[cellAddr s.cfg s.sp.cx s.sp.cy]? = some (s.mem.nxt.cells.getD (cellAddr s.cfg s.sp.cx s.sp.cy) false) :=
    Bank.cell_of_lt (cellAddr_lt_nxt h.memory_wf hx hy)
  refine ⟨t, hu.trans ht, (runFor_frame (hu.trans ht).run).1, ?_, ?_, ?_⟩
  · rw [htsp]
    exact nextCellRule_scanAt (p := { s.sp with sub := sub1 }) hp hx hy
  · rw [htmem]
    rfl
  · rw [htmem]
    exact take_succ_set (cellAddr_lt_cur h.memory_wf hx hy) hbit hcur

/-- A transition pass (R243, R246). -/
theorem Undisturbed.computes_transition (h : Undisturbed (s.cfg.cellCount * 2) s) (hp : s.sp.phase = spTRANSITION) (hs : s.sp.sub = sub0)
    (hx : s.sp.cx = 0) (hy : s.sp.cy = 0) :
    ∃ t, Computes (s.cfg.cellCount * 2) s t ∧ t.mem.cur.cells = s.mem.nxt.cells ∧ t.mem.nxt.cells = s.mem.nxt.cells
      ∧ t.sp.phase = spBEGIN ∧ t.sp.sub = sub0 := by
  have hbegin : CopiedTo s.cfg s.mem.nxt.cells 0 s := ⟨rfl, .first h.inv.1 hp hs hx hy, rfl, rfl⟩
  obtain ⟨t, ht, hcfg, hscan, hnxt, hcur⟩ := h.computes_parts (fun a ha _ hu hc => hc.computes_cell hu ha) hbegin
  have hlen := (Memory.wf_iff.1 (h.of_run (m := 0) ht.run).memory_wf).1
  rw [hcfg] at hlen
  rw [List.take_of_length_le (by omega), List.take_of_length_le (by have hlen' := (Memory.wf_iff.1 h.memory_wf).2; omega)] at hcur
  obtain ⟨hp', hs', -⟩ := hscan.at_end
  exact ⟨t, ht, hcur, hnxt, hp', hs'⟩

/-! The generations of a seed (R244, R294). -/

/-- The core alone at the start of a render pass of the grid cells, with rst low in every cycle to come. -/
structure RenderStart (c : Cfg) (cells : List Bool) (s : State) : Prop where
  after : ∀ n, AfterBringup n s
  cfg : s.cfg = c
  phase : s.sp.phase = spBEGIN
  cur : s.mem.cur.cells = cells

/-- A state from which the core alone goes on without rst is left in one by a run of EVOLVE or TRANSITION. -/
theorem Computes.keeps_after (h : Computes n s t) (ha : ∀ m, AfterBringup m s) (hp : t.sp.phase ≠ spBRINGUP) :
    Sends n s [] t ∧ ∀ m, AfterBringup m t := by
  obtain ⟨he, hsends⟩ := h.silent (ha 0).alone
  exact ⟨hsends, fun m => (ha (n + m)).of_sends hsends he (done_of_inv (inv_of_runFor (ha 0).inv h.run) hp)⟩

theorem AfterBringup.undisturbed (h : AfterBringup n s) : Undisturbed n s := ⟨h.inv, h.rstLow⟩

/-- The begin-write command is on the port at the start of a render pass (R203). -/
theorem RenderStart.port_eq {c : Cfg} {cells : List Bool} (h : RenderStart c cells s) : s.port = some (cmdReq c.cmdRamwr) := by
  rw [(h.after 0).port_eq, spReqValid_iff.2 (.inl h.phase), spReq_begin h.phase, h.cfg]
  rfl

/-- A render, an evolve and a transition pass send the frame of a generation and come to the start of the next one (R244). -/
theorem RenderStart.sends_generation {c : Cfg} {cells : List Bool} (h : RenderStart c cells s) :
    ∃ n t, Sends n s (frameStream c cells) t ∧ RenderStart c (lifeGrid c cells) t := by
  obtain ⟨hafter, rfl, hp, rfl⟩ := h
  obtain ⟨v, hframe⟩ := (hafter _).sends_frame hp
  have hevolve := fun m => (hafter (_ + m)).of_sends hframe (hafter 0).alone (hafter 0).done
  obtain ⟨t, ht, hnxt, -, hp', hs', hx', hy'⟩ := (hevolve _).undisturbed.computes_evolve rfl rfl rfl rfl rfl rfl
  obtain ⟨hsends, htransition⟩ := ht.keeps_after hevolve (by simp [hp'])
  obtain ⟨u, hu, hcur, -, hp'', -⟩ := (htransition _).undisturbed.computes_transition hp' hs' hx' hy'
  obtain ⟨hsends', hbegin⟩ := hu.keeps_after htransition (by simp [hp''])
  have hall := (hframe.trans hsends).trans hsends'
  rw [List.append_nil, List.append_nil] at hall
  exact ⟨_, u, hall, hbegin, (runFor_frame hall.run).1, hp'', hcur.trans hnxt⟩

/-- The generations 0 to g - 1, one frame after another (R244, R294). -/
theorem RenderStart.sends_generations {c : Cfg} {cells : List Bool} (h : RenderStart c cells s) (g : Nat) :
    ∃ n t, Sends n s ((List.range g).flatMap fun i => frameStream c ((lifeGrid c)^[i] cells)) t
      ∧ RenderStart c ((lifeGrid c)^[g] cells) t := by
  induction g with
  | zero => exact ⟨0, s, .refl s, h⟩
  | succ g ih =>
    obtain ⟨n, t, hframes, ht⟩ := ih
    obtain ⟨m, u, hframe, hu⟩ := ht.sends_generation
    rw [List.range_succ, List.flatMap_append, List.flatMap_singleton, Function.iterate_succ_apply']
    exact ⟨n + m, u, hframes.trans hframe, hu⟩

/-- The cycle of BRINGUP that sees done = 1 (R202). -/
theorem AfterBringup.sends_leaveBringup (h : AfterBringup 1 s) (hp : s.sp.phase = spBRINGUP) (hs : s.sp.sub = sub0) :
    Sends 1 s [] ((s.peWaited 1).setSp { s.sp with phase := spBEGIN, sub := sub0 }) := by
  have hk : decodeSpState (s.sp.phase ++ s.sp.sub) = .ok .spBringup := by rw [spCode_of_fields hp hs]; rfl
  have hrow : exec .spBringup s = .next (s.setSp (if s.done then { s.sp with phase := spBEGIN, sub := sub0 } else s.sp)) := rfl
  have hport : s.port = none := by rw [h.port_eq, spReqValid_bringup hp]; rfl
  rw [if_pos h.done] at hrow
  exact h.sends_quiet (n := 0) (q := { s.sp with phase := spBEGIN, sub := sub0 }) (m := s.mem) hk hrow (accepted_of_no_port hport)

/-- From reset the core alone sends the Init Table and comes to the start of the render pass of the seed (R179, R202). -/
theorem sends_bringup {c : Cfg} {inputs : List Input} {tick : Nat} (hw : c.wf = true) (hr : ∀ i ∈ inputs, i.rst = false) :
    ∃ n t, Sends n (State.init c inputs [] tick) (initStream c) t ∧ RenderStart c c.seed t := by
  obtain ⟨n, p, htable, -⟩ := sends_initTable (tick := tick) hw hr
  have hlow (k : Nat) : NoRst k (State.init c inputs [] tick) := fun i hi => hr i (List.mem_of_mem_take hi)
  have hdone (m : Nat) : AfterBringup m _ :=
    ⟨inv_of_runFor (inv_init hw inputs [] tick) htable.run, rfl, rfl, runFor_noRst htable.run (hlow (n + m))⟩
  have hleave := (hdone 1).sends_leaveBringup rfl rfl
  have hall := htable.trans hleave
  rw [List.append_nil] at hall
  exact ⟨_, _, hall, fun m => (hdone (1 + m)).of_sends hleave rfl rfl, rfl, rfl, rfl⟩

end

end Sys2Proof.Safety

namespace Sys2Proof.Proofs

open Sys2Proof.Machine Sys2Proof.Safety

/-- Settles O57: nine visits and a write for each address, in rising order, each from the same grid. -/
theorem evolveComputesOneGeneration : Obligations.EvolveComputesOneGeneration := by
  intro s hinv hp hs hx hy hv hn hr
  rw [Nat.mul_comm] at hr ⊢
  obtain ⟨t, ht, hend⟩ := Undisturbed.computes_evolve ⟨hinv, hr⟩ hp hs hx hy hv hn
  exact ⟨t, ht.run, hend⟩

/-- Settles O58: a read and a write for each address, in rising order. -/
theorem transitionCopiesTheBank : Obligations.TransitionCopiesTheBank := by
  intro s hinv hp hs hx hy hr
  rw [Nat.mul_comm] at hr ⊢
  obtain ⟨t, ht, hend⟩ := Undisturbed.computes_transition ⟨hinv, hr⟩ hp hs hx hy
  exact ⟨t, ht.run, hend⟩

/-- Settles O59, by induction on the generations: bring-up comes to the render pass of the seed, and a render, an evolve and a transition
pass to that of the next generation. -/
theorem framesShowTheGenerations : Obligations.FramesShowTheGenerations := by
  intro c inputs tick g hw hr
  obtain ⟨n, s, htable, hs⟩ := sends_bringup (tick := tick) hw hr
  obtain ⟨m, t, hframes, ht⟩ := hs.sends_generations g
  have hall := htable.trans hframes
  exact ⟨n + m, t, hall.run, hall.stream, ht.phase, ht.port_eq, ht.cur⟩

/-- Settles O25: a visit's address is in the bank, and EVOLVE is no phase that offers a request. -/
theorem evolveAddrReadsTheVisit : Obligations.EvolveAddrReadsTheVisit := by
  intro s _ hm hx hy hv
  exact ⟨_, Bank.cell_of_lt (visitAddr_lt_cur hm hx hy hv), exec_spEvolveAddr_eq hm hx hy hv, fun hp => spReqValid_scan (.inl hp)⟩

/-- Settles O26: the three cases of the visit counter, and the bound that the invariant gives the sum. -/
theorem evolveAccTakesTheVisit : Obligations.EvolveAccTakesTheVisit := by
  intro s
  rw [exec_spEvolveAcc_eq]
  refine ⟨fun h4 => ?_, fun h4 h8 => ⟨_, ?_, toNat_addBit _⟩, fun h8 => ⟨_, ?_, toNat_addBit _⟩, sum_lt_of_spOk⟩
  · rw [accumulateRule_centre h4]
  · rw [accumulateRule_neighbour h4 h8]
  · rw [accumulateRule_last h8]

/-- Settles O27: the write is of the target's address alone, and the scan over cells has three cases. -/
theorem evolveWriteStoresLife : Obligations.EvolveWriteStoresLife := by
  intro s hm hx hy
  have hcell (a : Nat) := Bank.cell_set s.mem.nxt _ a (life s.sp.alive s.sp.n.toNat) (cellAddr_lt_nxt hm hx hy)
  refine ⟨_, exec_spEvolveWrite_eq hm hx hy, rfl, ?_, fun a ha => ?_, fun hnext => ?_, fun hrow hnext => ?_, fun hrow hlast => ?_⟩
  · exact (hcell _).trans (if_pos rfl)
  · exact (hcell a).trans (if_neg ha)
  · exact nextCellRule_next spTRANSITION hnext
  · exact nextCellRule_row spTRANSITION hrow hnext
  · exact nextCellRule_last spTRANSITION hrow hlast

/-- Settles O28: the read and the write are of the target's address alone, and the scan over cells has three cases. -/
theorem transitionLoadsAndWritesACell : Obligations.TransitionLoadsAndWritesACell := by
  intro s hm hx hy
  have hcell (a : Nat) := Bank.cell_set s.mem.cur _ a s.mem.nxt.rdata (cellAddr_lt_cur hm hx hy)
  refine ⟨⟨_, Bank.cell_of_lt (cellAddr_lt_nxt hm hx hy), exec_spTransitionLoad_eq hm hx hy⟩,
    _, exec_spTransitionWrite_eq hm hx hy, rfl, ?_, fun a ha => ?_, fun hnext => ?_, fun hrow hnext => ?_, fun hrow hlast => ?_⟩
  · exact (hcell _).trans (if_pos rfl)
  · exact (hcell a).trans (if_neg ha)
  · exact nextCellRule_next spBEGIN hnext
  · exact nextCellRule_row spBEGIN hrow hnext
  · exact nextCellRule_last spBEGIN hrow hlast

/-- Settles O46: the cases of the wrap, and the coordinates of a visit and of a pixel on each axis. -/
theorem wrapIsTheTorus : Obligations.WrapIsTheTorus := by
  refine ⟨fun d hd => ⟨⟨wrap_zero d, wrap_last d, fun c hc hcd => ?_⟩, fun c hc => ⟨wrap_lt hd hc, wrap_eq_mod hd hc⟩⟩,
    fun c x y v hx hy hv => ?_, fun c col pag _ hcol hpag => ?_⟩
  · obtain ⟨x, rfl⟩ : ∃ x, c = x + 1 := ⟨c - 1, by omega⟩
    exact wrap_succ (by omega)
  · obtain ⟨hcx, hleft, hright⟩ := visitCoordinate_bounds hx (visitOffset_le hv).1
    obtain ⟨hcy, htop, hbottom⟩ := visitCoordinate_bounds hy (visitOffset_le hv).2
    exact ⟨_, _, rfl, rfl, rfl, hcx, hcy, hleft, hright, htop, hbottom⟩
  · exact ⟨_, _, rfl, rfl, rfl, Nat.succ_pos _, (wrap_block hcol).2, Nat.succ_pos _, (wrap_block hpag).2⟩

/-- Settles O47: the wrap is the torus on each axis, and its three offsets are distinct from three cells on. -/
theorem visitsCoverTheNeighbourhood : Obligations.VisitsCoverTheNeighbourhood := by
  intro c x y hx hy
  refine ⟨fun v => visitAddr_eq_mod hx hy, visitAddr_centre hx hy, fun v => visitAddr_lt hx hy, fun hw => ⟨?_, ?_⟩,
    fun hh => ⟨?_, ?_⟩, fun hw hh u v => visitAddr_inj hx hy hw hh⟩
  · exact visitAddr_of_wrap (wrap_zero _) (wrap_succ hy)
  · exact visitAddr_of_wrap (wrap_beyond_last (by omega)) (wrap_succ hy)
  · exact visitAddr_of_wrap (wrap_succ hx) (wrap_zero _)
  · exact visitAddr_of_wrap (wrap_succ hx) (wrap_beyond_last (by omega))

/-- Settles O48: each state of the cell leaves one of the two disjuncts of life. -/
theorem lifeTruthTable : Obligations.LifeTruthTable := fun n => ⟨life_alive_iff n, life_dead_iff n⟩

end Sys2Proof.Proofs
end

section
/-! SUPPORT. The family of 60_exceptions.md: a step as the join of its decoded rows, everything a refusing step can be, and the step of a
state that differs in what miso has brought alone. -/

namespace Sys2Proof.Machine

/-! The rows of a step, joined. -/

section
variable {s : State}

/-- A cycle of a well-formed build with rst = 1 is the reset (R264, R290). -/
theorem step_of_rst (hw : s.cfg.wf = true) (hr : s.rst = true) : step s = .next s.afterRst := by simp [step, hw, hr]

/-- A cycle of a well-formed build without rst joins the rows that the three dispatch codes decode to (R112, R264). -/
theorem step_eq_joinCycle {i j k : Instr} (hw : s.cfg.wf = true) (hr : s.rst = false) (hi : decode s.cfg.cmdNop s.peCode = .ok i)
    (hj : decode s.cfg.cmdNop s.isCode = .ok j) (hk : decode s.cfg.cmdNop s.spCode = .ok k) :
    step s = joinCycle s s.extAfter (exec i s) (exec j s) (exec k s) := by
  have hf : fetchCycle s = .ok (i, j, k) := by simp [fetchCycle, hi, hj, hk]
  simp [step, hw, hr, hf]

/-! Refusals (R262). -/

/-- When the PE's and the IS's rows answer, the join refuses what the SP's row refuses. -/
theorem joinCycle_refused_iff {p q : State} {ext : List Req} {c : Host.Outcome State Fault Refusal} {e : Refusal} :
    joinCycle s ext (.next p) (.next q) c = .refused e ↔ c = .refused e := by
  cases c <;> simp [joinCycle]

/-- A bank refuses a read and a write in one cycle, or an address that it does not have, and nothing else (R75, R76). -/
theorem Bank.clock_error {b : Bank} {c : BankPorts} {e : Refusal} (h : b.clock c = .error e) :
    e = .readDuringWrite ∨ e = .addressOutOfRange := by
  unfold Bank.clock at h
  split at h
  · cases h
  · split at h <;> cases h
    exact .inr rfl
  · split at h <;> cases h
    exact .inr rfl
  · cases h
    exact .inl rfl

/-- The SP's commit refuses what one of the two banks refuses. -/
theorem spCommit_refused {r : SpRegs} {cur nxt : BankPorts} {e : Refusal} (h : spCommit s r cur nxt = .refused e) :
    s.mem.cur.clock cur = .error e ∨ s.mem.nxt.clock nxt = .error e := by
  unfold spCommit at h
  split at h
  · cases h
  · next hc =>
    cases h
    exact .inl hc
  · next hn =>
    cases h
    exact .inr hn

/-- An SP row refuses an access to a bank, and nothing else. -/
theorem exec_spRow_refused {k : Instr} {e : Refusal} (hk : decodeSpState (s.sp.phase ++ s.sp.sub) = .ok k)
    (h : exec k s = .refused e) : e = .readDuringWrite ∨ e = .addressOutOfRange := by
  obtain ⟨r, cur, nxt, hrow, -⟩ := exec_spRow_access hk
  obtain hc | hn := spCommit_refused (hrow ▸ h)
  · exact Bank.clock_error hc
  · exact Bank.clock_error hn

/-- Everything one step can do when it refuses: there is no machine, a code has no row, or the SP's row refuses. -/
theorem step_refused {e : Refusal} (h : step s = .refused e) :
    (s.cfg.wf = false ∧ e = .illFormedCfg)
      ∨ (s.cfg.wf = true ∧ s.rst = false ∧ e = .unreachableState)
      ∨ (s.cfg.wf = true ∧ s.rst = false ∧ ∃ k, decodeSpState (s.sp.phase ++ s.sp.sub) = .ok k ∧ exec k s = .refused e) := by
  cases hw : s.cfg.wf with
  | false =>
    rw [step_of_illFormed hw] at h
    cases h
    exact .inl ⟨rfl, rfl⟩
  | true =>
    refine .inr ?_
    cases hr : s.rst with
    | true =>
      rw [step_of_rst hw hr] at h
      cases h
    | false =>
      cases hf : fetchCycle s with
      | error r =>
        simp only [step, hw, hr, hf] at h
        cases h
        exact .inl ⟨rfl, rfl, fetchCycle_error hf⟩
      | ok rows =>
        obtain ⟨-, hj, hk⟩ := fetchCycle_ok.1 hf
        rw [step_of_fetch hw hr hj hk, joinCycle_refused_iff] at h
        exact .inr ⟨rfl, rfl, _, hk, h⟩

/-- A step refuses for one of R262's four reasons. -/
theorem step_refusal_cases {e : Refusal} (h : step s = .refused e) :
    e = .illFormedCfg ∨ e = .unreachableState ∨ e = .readDuringWrite ∨ e = .addressOutOfRange := by
  obtain ⟨-, he⟩ | ⟨-, -, he⟩ | ⟨-, -, k, hk, hrow⟩ := step_refused h
  · exact .inl he
  · exact .inr (.inl he)
  · exact .inr (.inr (exec_spRow_refused hk hrow))

/-- There is no machine exactly for a Cfg that breaks R10 (R9, R262). -/
theorem step_illFormedCfg_iff : step s = .refused .illFormedCfg ↔ s.cfg.wf = false := by
  refine ⟨fun h => ?_, step_of_illFormed⟩
  obtain ⟨hw, -⟩ | ⟨-, -, he⟩ | ⟨-, -, k, hk, hrow⟩ := step_refused h
  · exact hw
  · cases he
  · cases exec_spRow_refused hk hrow <;> contradiction

end

/-! Two states that differ in what miso brings and has brought (R145, R278). -/

/-- PE registers that differ in pe_rx alone. -/
def SameButRx (p q : PeRegs) : Prop := ∃ rx, q = { p with rx := rx }

section
variable {p q : PeRegs}

/-- An acceptance, or none, in IDLE (R131). -/
theorem peIdleRule_sameButRx (o : Option Req) (h : SameButRx p q) : SameButRx (peIdleRule o p) (peIdleRule o q) := by
  cases o with
  | none => exact h
  | some r =>
    obtain ⟨rx, rfl⟩ := h
    exact ⟨rx, rfl⟩

/-- The end of a request bit does not look at pe_rx (R132). -/
theorem txBitEnd_sameButRx (h : SameButRx p q) : SameButRx (txBitEnd p) (txBitEnd q) := by
  obtain ⟨rx, rfl⟩ := h
  simp only [txBitEnd]
  split_ifs <;> exact ⟨rx, rfl⟩

/-- The end of a response bit puts the sample into pe_rx and looks at neither (R133). -/
theorem rxBitEnd_sameButRx (m m' : Bool) (h : SameButRx p q) : SameButRx (rxBitEnd m p) (rxBitEnd m' q) := by
  obtain ⟨rx, rfl⟩ := h
  simp only [rxBitEnd]
  split_ifs <;> exact ⟨shiftIn rx m', rfl⟩

/-- The emit cycle does not look at pe_rx (R134). -/
theorem peEmitRule_sameButRx (h : SameButRx p q) : SameButRx (peEmitRule p) (peEmitRule q) := by
  obtain ⟨rx, rfl⟩ := h
  simp only [peEmitRule]
  split_ifs <;> exact ⟨rx, rfl⟩

/-- A bit slot is counted without a look at pe_rx, so its cycle differs only where its last one does (R106). -/
theorem bitSlotRule_sameButRx (c : Cfg) {f g : PeRegs → PeRegs} (hend : ∀ {a b}, SameButRx a b → SameButRx (f a) (g b))
    (h : SameButRx p q) : SameButRx (bitSlotRule c p f) (bitSlotRule c q g) := by
  obtain ⟨rx, rfl⟩ := h
  unfold bitSlotRule
  cases p.ph with
  | setup =>
    dsimp only
    split_ifs <;> exact ⟨rx, rfl⟩
  | active =>
    dsimp only
    split_ifs
    · exact ⟨rx, rfl⟩
    · exact hend ⟨rx, rfl⟩

/-- No cycle of the PE brings a level of miso, or pe_rx, into another of its registers (R131 to R134, R145). -/
theorem peRule_sameButRx (c : Cfg) (o : Option Req) (m m' : Bool) (h : SameButRx p q) :
    SameButRx (peRule c o m p) (peRule c o m' q) := by
  have hstate : q.state = p.state := by
    obtain ⟨rx, rfl⟩ := h
    rfl
  rcases peState_cases p.state with hp | hp | hp | hp <;> have hq := hstate.trans hp
  · rw [peRule_idle hp, peRule_idle hq]
    exact peIdleRule_sameButRx o h
  · rw [peRule_tx hp, peRule_tx hq]
    exact bitSlotRule_sameButRx c txBitEnd_sameButRx h
  · rw [peRule_rx hp, peRule_rx hq]
    exact bitSlotRule_sameButRx c (rxBitEnd_sameButRx m m') h
  · rw [peRule_emit hp, peRule_emit hq]
    exact peEmitRule_sameButRx h

end

/-- s with other inputs to come and another byte in pe_rx. -/
def State.withHeard (s : State) (inputs : List Input) (rx : Byte) : State := { s with inputs := inputs, pe := { s.pe with rx := rx } }

section
variable {s t u : State} {inputs : List Input} {rx : Byte}

/-- rst is the first of the coming levels of rst, and 0 where none is listed (R30). -/
theorem State.rst_eq_headD (s : State) : s.rst = (s.inputs.map Input.rst).headD false := by
  unfold State.rst
  cases s.inputs <;> rfl

/-- The same levels of rst give the same rst in this cycle. -/
theorem State.withHeard_rst (h : inputs.map Input.rst = s.inputs.map Input.rst) : (s.withHeard inputs rx).rst = s.rst := by
  rw [rst_eq_headD, rst_eq_headD s, ← h, withHeard]

/-! The build, the port, an external producer and the IS's cycle know nothing of miso and pe_rx. -/

theorem State.withHeard_cfg : (s.withHeard inputs rx).cfg = s.cfg := rfl
theorem State.withHeard_port : (s.withHeard inputs rx).port = s.port := rfl
theorem State.withHeard_extAfter : (s.withHeard inputs rx).extAfter = s.extAfter := rfl
theorem isRule_withHeard : isRule (s.withHeard inputs rx) = isRule s := rfl

/-- The SP's commit reads and changes the SP's registers and the banks alone. -/
theorem spCommit_withHeard {r : SpRegs} {cur nxt : BankPorts} (h : spCommit s r cur nxt = .next u) :
    spCommit (s.withHeard inputs rx) r cur nxt = .next (u.withHeard inputs rx) := by
  obtain ⟨c, n, hc, hn, rfl⟩ := spCommit_next h
  exact spCommit_of_ok hc hn

/-- No SP row reads miso or pe_rx: what it commits it computes from the other registers and the banks. -/
theorem exec_spRow_withHeard {k : Instr} (hk : decodeSpState (s.sp.phase ++ s.sp.sub) = .ok k) (h : exec k s = .next u) :
    exec k (s.withHeard inputs rx) = .next (u.withHeard inputs rx) := by
  rcases decodeSp_cases hk with ⟨-, rfl⟩ | ⟨-, rfl⟩ | ⟨-, rfl⟩ | ⟨-, rfl⟩ | ⟨-, rfl⟩ | ⟨-, rfl⟩ | ⟨-, rfl⟩ | ⟨-, rfl⟩
    | ⟨-, rfl⟩ | ⟨-, rfl⟩
  · cases h
    rfl
  · cases h
    rfl
  · exact spCommit_withHeard h
  · cases h
    rfl
  · cases h
    rfl
  · exact spCommit_withHeard h
  · cases h
    rfl
  · exact spCommit_withHeard h
  · exact spCommit_withHeard h
  · exact spCommit_withHeard h

/-- A step commutes with what miso brings and has brought: only pe_rx depends on it afterwards. -/
theorem step_withHeard (hst : step s = .next t) (hin : inputs.map Input.rst = s.inputs.map Input.rst) :
    ∃ rx', step (s.withHeard inputs rx) = .next (t.withHeard inputs.tail rx') := by
  have hrst : (s.withHeard inputs rx).rst = s.rst := State.withHeard_rst hin
  obtain ⟨hw, ⟨hr, rfl⟩ | ⟨hr, j, k, u, hj, hk, hu, -⟩⟩ := step_next hst
  · exact ⟨PeRegs.reset.rx, step_of_rst hw (hrst.trans hr)⟩
  · rw [step_of_fetch hw hr hj hk, hu, joinCycle_next] at hst
    cases hst
    obtain ⟨rx', hpe⟩ : SameButRx (peRule s.cfg s.port s.miso s.pe)
        (peRule s.cfg s.port (s.withHeard inputs rx).miso (s.withHeard inputs rx).pe) :=
      peRule_sameButRx _ _ _ _ ⟨rx, rfl⟩
    refine ⟨rx', ?_⟩
    rw [step_of_fetch (s := s.withHeard inputs rx) hw (hrst.trans hr) hj hk, exec_spRow_withHeard hk hu, joinCycle_next,
      State.withHeard_cfg, State.withHeard_port, State.withHeard_extAfter, isRule_withHeard, hpe]
    rfl

end

end Sys2Proof.Machine

namespace Sys2Proof.Proofs

open Sys2Proof.Machine Sys2Proof.Safety

/-- Settles O38: the inversion of a refusing step names the four, and a state of the invariant steps on, so every run from reset does. -/
theorem onlyTheFourRefusals : Obligations.OnlyTheFourRefusals := by
  refine ⟨fun _ f => (nomatch f), fun _ _ => step_refusal_cases, fun _ => step_illFormedCfg_iff, fun _ => step_of_inv, ?_⟩
  intro c inputs ext tick k hw
  exact runFor_of_inv (inv_init hw inputs ext tick) k

/-- Settles O43: the step commutes with a change of the levels of miso and of pe_rx. -/
theorem misoReachesPeRxAlone : Obligations.MisoReachesPeRxAlone := fun _ _ _ _ hst hin => step_withHeard hst hin

/-- Settles O34: the join of the three rows, with the PE's and the IS's always answering. -/
theorem stepRunsTheDecodedRows : Obligations.StepRunsTheDecodedRows := by
  intro s hw
  refine ⟨step_of_rst hw, fun hr i j k hi hj hk => ⟨fun p q r hp hq hr' => ?_, fun e he => ?_⟩⟩
  · rw [step_eq_joinCycle hw hr hi hj hk, hp, hq, hr', joinCycle_next, extAfter_eq]
    rfl
  · rw [step_of_fetch hw hr hj hk]
    exact joinCycle_refused_iff.2 he

end Sys2Proof.Proofs
end

section
/-! SUPPORT. The family of 70_reset_and_hazards.md: what a cycle with rst abandons, what no other cycle goes back to, and what a producer
holds while its request waits. -/

namespace Sys2Proof.Machine

open Sys2Proof.Safety

/-! The operations of many cycles in a cycle with rst = 1 (R290, log entries 6 and 7). -/

section
variable {s : State}

/-- A cycle of the PE alone with rst = 1 abandons the operation in the reset state. -/
theorem peCycle_of_rst (o : Option Req) (hr : s.rst = true) : peCycle o s = .error s.afterRst := if_pos hr

theorem peBusyBound_pos (c : Cfg) : 0 < peBusyBound c := by
  unfold peBusyBound
  omega

/-- An offer is abandoned in its first cycle: a busy PE's in the wait for IDLE, an idle PE's at the port. -/
theorem submit_of_rst (r : Req) (hr : s.rst = true) : submit r s = .error s.afterRst := by
  rw [submit]
  by_cases hidle : s.pe.state = peIDLE
  · rw [runToIdle_idle hidle]
    exact peCycle_of_rst (some r) hr
  · obtain ⟨k, hk⟩ := Nat.exists_eq_succ_of_ne_zero (peBusyBound_pos s.cfg).ne'
    rw [hk, runToIdle, if_neg hidle, peCycle_of_rst none hr]
    rfl

/-- Both request rows (R138, R139). -/
theorem exec_txn_of_rst {d : Byte} {n : BitVec 4} {i : Instr} (hi : i = .txnCmd d n ∨ i = .txnParam d n) (hr : s.rst = true) :
    exec i s = .next s.afterRst := by
  obtain ⟨mode, hrow⟩ := exec_txn hi s
  rw [hrow, transact, submit_of_rst _ hr]
  rfl

/-- The row of a command entry, in the IS_NEXT cycle that dispatches it (R177). -/
theorem exec_initCmd_of_rst (cmd : Byte) (ps : List Byte) (hr : s.rst = true) : exec (.initCmd cmd ps) s = .next s.afterRst := by
  rw [exec, execInitCmd, peCycle_of_rst none hr]
  rfl

/-- The sentinel's row, in the IS_NEXT cycle that dispatches it (R178). -/
theorem exec_initNop_of_rst (hr : s.rst = true) : exec .initNop s = .next s.afterRst := by
  rw [exec, execInitNop, peCycle_of_rst none hr]
  rfl

end

/-! No cycle without rst goes back to BRINGUP (R290). -/

section
variable {s t : State} {p : SpRegs}

/-- The scan over pixels stays in its phase or goes to EVOLVE (R206). -/
theorem nextPixelRule_phase (c : Cfg) (p : SpRegs) : (nextPixelRule c p).phase = p.phase ∨ (nextPixelRule c p).phase = spEVOLVE := by
  unfold nextPixelRule
  split_ifs
  · exact .inl rfl
  · exact .inl rfl
  · exact .inr rfl

/-- The scan over cells stays in its phase or goes to the one after it (R238, R242). -/
theorem nextCellRule_phase (c : Cfg) (after : BitVec 3) (p : SpRegs) :
    (nextCellRule c after p).phase = p.phase ∨ (nextCellRule c after p).phase = after := by
  unfold nextCellRule
  split_ifs
  · exact .inl rfl
  · exact .inl rfl
  · exact .inr rfl

/-- No move of the SP goes back to BRINGUP. -/
theorem SpMove.ne_bringup (hm : SpMove s p) (h : s.sp.phase ≠ spBRINGUP) : p.phase ≠ spBRINGUP := by
  cases hm with
  | hold | readPixel _ | sendByte0 _ | readVisit _ _ | takeVisit _ _ | loadCell _ => exact h
  | start _ _ | openFrame _ => simp
  | sendByte1 _ =>
    obtain heq | heq := nextPixelRule_phase s.cfg s.sp <;> rw [heq]
    · exact h
    · decide
  | writeCell _ =>
    obtain heq | heq := nextCellRule_phase s.cfg spTRANSITION { s.sp with n := 0#4, v := 0#4 } <;> rw [heq]
    · exact h
    · decide
  | copyCell _ =>
    obtain heq | heq := nextCellRule_phase s.cfg spBEGIN s.sp <;> rw [heq]
    · exact h
    · decide

/-- The SP's registers after a cycle without rst are one of its moves. -/
theorem step_spMove (h : step s = .next t) (hr : s.rst = false) : SpMove s t.sp := by
  obtain ⟨-, ⟨hr', -⟩ | ⟨-, _, k, u, -, hk, hu, -, -, -, hsp, -⟩⟩ := step_next h
  · simp [hr] at hr'
  · obtain ⟨r, cur, nxt, hrow, hmove⟩ := exec_spRow hk
    obtain ⟨_, _, -, -, rfl⟩ := spCommit_next (hrow ▸ hu)
    rw [hsp]
    exact hmove

end

/-! The request lines by producer (R36, log entry 5). -/

section
variable {s t : State}

theorem lines_of_ext {r : Req} {rs : List Req} (he : s.extReqs = r :: rs) :
    s.selected = .ext ∧ s.reqValid = true ∧ s.reqLines = r := by
  have hsel : s.selected = .ext := by simp [State.selected, he]
  simp [State.reqValid, State.reqLines, hsel, he]

theorem lines_of_not_done (he : s.extReqs = []) (hd : s.done = false) :
    s.selected = .initSequencer ∧ s.reqValid = s.isReqValid ∧ s.reqLines = s.isReq := by
  have hsel := selected_of_not_done he hd
  simp [State.reqValid, State.reqLines, hsel]

theorem lines_of_done (he : s.extReqs = []) (hd : s.done = true) :
    s.selected = .pipeline ∧ s.reqValid = s.spReqValid ∧ s.reqLines = s.spReq := by
  have hsel := selected_of_done he hd
  simp [State.reqValid, State.reqLines, hsel]

/-! What each producer holds while the PE is busy (R15, R305). -/

/-- An external producer's requests. -/
theorem step_holds_extReqs (hst : step s = .next t) (hr : s.rst = false) (hbusy : s.reqReady = false) : t.extReqs = s.extReqs := by
  obtain ⟨-, ⟨hr', -⟩ | ⟨-, _, _, _, -, -, -, -, -, -, -, -, -, hext, -⟩⟩ := step_next hst
  · simp [hr] at hr'
  · rw [hext, extAfter_eq, hbusy]
    rfl

/-- The IS's lines while they are valid depend on the build and on its registers alone: not on a draw (R170). -/
theorem isReq_of_valid (hcfg : t.cfg = s.cfg) (his : t.is = s.is) (hv : s.isReqValid = true) : t.isReq = s.isReq := by
  rcases isReqValid_iff.1 hv with hst | hst <;> simp [State.isReq, hcfg, his, hst]

/-- The IS's byte. -/
theorem step_holds_isReq (hst : step s = .next t) (hr : s.rst = false) (hbusy : s.reqReady = false) (hv : s.isReqValid = true) :
    t.is = s.is ∧ t.isReq = s.isReq := by
  have hfire : s.isFire = false := by simp [State.isFire, hbusy]
  have his : t.is = s.is := (step_is hst hr).trans (isRule_of_not_fire (isReqValid_iff.1 hv) hfire)
  exact ⟨his, isReq_of_valid (step_cfg hst) his hv⟩

/-- A row of the SP that runs while its request is valid is one of the three that offer. -/
theorem spOffers_of_valid {k : Instr} (hk : decodeSpState (s.sp.phase ++ s.sp.sub) = .ok k) (hv : s.spReqValid = true) :
    ∃ r q, SpOffers s.cfg s.mem.cur.rdata s.sp k r q := by
  have hoffers : ∃ k' r q, SpOffers s.cfg s.mem.cur.rdata s.sp k' r q := by
    rcases spReqValid_iff.1 hv with hp | ⟨hp, hs | hs⟩
    · have hlisted : SpListed s.sp := by simp [SpListed, hk, Except.isOk, Except.toBool]
      have hs : s.sp.sub = sub0 := by simpa [hp] using (spListed_iff s.sp).1 hlisted
      exact ⟨_, _, _, .beginWrite hp hs⟩
    · exact ⟨_, _, _, .byte0 hp hs⟩
    · exact ⟨_, _, _, .byte1 hp hs⟩
  obtain ⟨k', r, q, ho⟩ := hoffers
  obtain rfl : k' = k := Except.ok.inj (ho.decode_eq.symm.trans hk)
  exact ⟨r, q, ho⟩

/-- The SP's request. -/
theorem step_holds_spReq (hst : step s = .next t) (hr : s.rst = false) (hbusy : s.reqReady = false) (hv : s.spReqValid = true) :
    t.spReqValid = true ∧ t.spReq = s.spReq := by
  have hfire : s.spFire = false := by simp [State.spFire, hbusy]
  obtain ⟨-, ⟨hr', -⟩ | ⟨-, _, k, u, -, hk, hu, hcfg, -, -, hsp, hmem, -⟩⟩ := step_next hst
  · simp [hr] at hr'
  · obtain ⟨r, q, ho⟩ := spOffers_of_valid hk hv
    rw [ho.exec_eq, hfire] at hu
    cases hu
    have ho' : SpOffers t.cfg t.mem.cur.rdata t.sp k r q := by
      rw [hcfg, hsp, hmem]
      exact ho
    exact ⟨ho'.valid, ho'.spReq_eq.trans ho.spReq_eq.symm⟩

/-- A request on the port of a busy PE is on it in the next cycle, from the same producer. -/
theorem step_holds_request (hst : step s = .next t) (hr : s.rst = false) (hv : s.reqValid = true) (hbusy : s.reqReady = false) :
    t.reqValid = true ∧ t.reqLines = s.reqLines ∧ t.selected = s.selected := by
  have hext := step_holds_extReqs hst hr hbusy
  cases he : s.extReqs with
  | cons r rs =>
    obtain ⟨hsel, -, hlines⟩ := lines_of_ext he
    obtain ⟨hsel', hvalid', hlines'⟩ := lines_of_ext (hext.trans he)
    exact ⟨hvalid', hlines'.trans hlines.symm, hsel'.trans hsel.symm⟩
  | nil =>
    cases hd : s.done with
    | false =>
      obtain ⟨hsel, hvalid, hlines⟩ := lines_of_not_done he hd
      have hisv : s.isReqValid = true := hvalid.symm.trans hv
      obtain ⟨his, hreq⟩ := step_holds_isReq hst hr hbusy hisv
      have hd' : t.done = false := by rw [State.done, his]; exact hd
      obtain ⟨hsel', hvalid', hlines'⟩ := lines_of_not_done (hext.trans he) hd'
      refine ⟨hvalid'.trans ?_, by rw [hlines', hlines, hreq], hsel'.trans hsel.symm⟩
      rw [State.isReqValid, his]
      exact hisv
    | true =>
      obtain ⟨hsel, hvalid, hlines⟩ := lines_of_done he hd
      obtain ⟨hvalidSp, hreq⟩ := step_holds_spReq hst hr hbusy (hvalid.symm.trans hv)
      have hd' : t.done = true := by rw [State.done, step_is hst hr, isRule_of_done hd]; exact hd
      obtain ⟨hsel', hvalid', hlines'⟩ := lines_of_done (hext.trans he) hd'
      exact ⟨hvalid'.trans hvalidSp, by rw [hlines', hlines, hreq], hsel'.trans hsel.symm⟩

/-- From a cycle in which it offers a byte the IS does not go to DONE: it holds, goes on, or goes to NEXT (R174, R175). -/
theorem isRule_ne_done (hv : s.isReqValid = true) : (isRule s).state ≠ isDONE := by
  rcases isReqValid_iff.1 hv with hst | hst
  · rw [isRule_cmd hst, isCmdRule]
    split_ifs <;> simp [hst]
  · rw [isRule_param hst, isParamRule]
    split_ifs <;> simp [hst]

end

end Sys2Proof.Machine

namespace Sys2Proof.Proofs

open Sys2Proof.Machine Sys2Proof.Safety

/-- Settles O3: rst comes first in a step and in a row of many cycles, and no rule of the IS or move of the SP goes back to its first
state. -/
theorem rstResetsAndNothingElseDoes : Obligations.RstResetsAndNothingElseDoes := by
  refine ⟨fun _ => step_of_rst, fun s t hst hr => ⟨fun his => ?_, (step_spMove hst hr).ne_bringup⟩, fun s hr =>
    ⟨fun _ _ => ⟨exec_txn_of_rst (.inl rfl) hr, exec_txn_of_rst (.inr rfl) hr⟩, fun c ps => exec_initCmd_of_rst c ps hr,
      exec_initNop_of_rst hr⟩⟩
  rw [step_is hst hr]
  exact isRule_ne_reset his

/-- Settles O39: each producer holds its lines while the PE is busy, and the IS reaches DONE from a cycle without an offer only. -/
theorem producersHoldTheirRequest : Obligations.ProducersHoldTheirRequest := by
  refine fun s t hst hr => ⟨step_holds_request hst hr, fun _ hd => ?_⟩
  rw [done_iff, step_is hst hr] at hd
  exact Bool.eq_false_iff.2 fun hv => isRule_ne_done hv hd

end Sys2Proof.Proofs
end
